-- ==== Sys2Proof/Word.lean ====
section
/-! DEFINITION. The word type and the widths of the instruction fields (00_scope.md R8, R9; 30_encoding.md R60). -/

namespace Sys2Proof

/-- A 32-bit word: a register value, ALU operand, ALU result, address, program counter, instruction or memory
word (00_scope.md R9). `+` and `-` are modulo 2^32. -/
abbrev Word := BitVec 32

/-- One byte, the cell of the model's memory list. -/
abbrev Byte := BitVec 8

/-- The opcode field, bits 31–26 (30_encoding.md R60). -/
abbrev Opcode := BitVec 6

/-- A register field, bits 25–21, 20–16 or 15–11 (30_encoding.md R60): always a number of 0 .. 31. -/
abbrev RegIdx := BitVec 5

/-- The function code, bits 5–0 (30_encoding.md R60). -/
abbrev Funct := BitVec 6

/-- The offset field, bits 15–0 (30_encoding.md R60). -/
abbrev Offset := BitVec 16

/-- The jump target field, bits 25–0 (30_encoding.md R60). -/
abbrev Target := BitVec 26

end Sys2Proof
end

