-- ==== Sys2Proof/Config.lean ====
section
/-! DEFINITION. What an implementation fixes: the fixed parameters of 00_scope.md R6, the open parameters of
00_scope.md R7 that the semantics reads, and the one free value of 93_implementation_defined.md. -/

namespace Sys2Proof

/-- Which register field names the data register of sw (00_scope.md R7; 20_memory.md R46; 92_eei_decisions.md D3). -/
inductive StoreDataField where
  | r2
  | r1
deriving DecidableEq, Repr

/-- The three semantic parameters of 00_scope.md R7, fixed for a whole run (70_reset_and_hazards.md R230).
DESIGN CHOICE (log entry 5): `State` carries them, so that the one step function covers every value of them. -/
structure Params where
  /-- R0_HARDWIRED (10_state.md R22). -/
  r0Hardwired : Bool
  /-- SLT_INVERTED (40_datapath.md R115). -/
  sltInverted : Bool
  /-- STORE_DATA_FIELD (20_memory.md R46). -/
  storeDataField : StoreDataField
deriving DecidableEq, Repr

/-- The defaults the spec takes (00_scope.md R7). -/
def Params.default : Params := { r0Hardwired := false, sltInverted := false, storeDataField := .r2 }

/-- MEM_BYTES: valid byte addresses are [0, 65536) (00_scope.md R6; log entry 17). -/
def Config.memBytes : Nat := 65536

/-- The MemoryUnit's readData output for an address when MemRead is not asserted: "any value, never selected"
(93_implementation_defined.md I9; 20_memory.md R45). A FREE VALUE (log entry 16): it has no body, so nothing can be
proved of it. -/
opaque Config.undrivenReadData : Word → Word

end Sys2Proof
end

