-- ==== Sys2Proof/Machine/Flags.lean ====
section
/-! DEFINITION. The Zero flag and the two comparisons (40_datapath.md R115, R116). The Zero flag is the only flag and
is never stored (10_state.md R25). -/

namespace Sys2Proof.Machine

/-- Zero-flag = (result == 0) (40_datapath.md R116). -/
def zeroFlag (result : Word) : Bool := result == 0#32

/-- SetLessThan(signed), whose meaning SLT_INVERTED selects (40_datapath.md R115; 90_conflicts.md C1). -/
def ltSigned (p : Params) (a b : Word) : Bool := if p.sltInverted then a.ult b else a.slt b

/-- SetLessThan(unsigned), whose meaning SLT_INVERTED selects (40_datapath.md R115; 90_conflicts.md C1). -/
def ltUnsigned (p : Params) (a b : Word) : Bool := if p.sltInverted then a.slt b else a.ult b

/-- The 32-bit result of a comparison: 1 or 0 (40_datapath.md R115). -/
def flagWord (b : Bool) : Word := if b then 1#32 else 0#32

end Sys2Proof.Machine
end

