-- ==== Sys2Proof/Machine/Signals.lean ====
section
/-! DEFINITION. The types of the datapath's signals (30_encoding.md R60, R67, R68; 40_datapath.md R101). -/

namespace Sys2Proof

/-- The outputs of InstructionPartition (40_datapath.md R101). -/
structure Fields where
  opcode : Opcode
  r1 : RegIdx
  r2 : RegIdx
  r3 : RegIdx
  funct : Funct
  offset : Offset
  target : Target
deriving DecidableEq, Repr

/-- RegDst (30_encoding.md R67): the "not applicable" state is its own value. -/
inductive RegDst where
  | r2
  | r3
  | na
deriving DecidableEq, Repr

/-- MemtoReg (30_encoding.md R67): whether writeback takes the ALU result or the loaded word. -/
inductive MemtoReg where
  | alu
  | mem
deriving DecidableEq, Repr

/-- ALUSrc (30_encoding.md R67): whether ALU operand B is x[r2] or the sign-extended immediate. -/
inductive ALUSrc where
  | reg
  | imm
deriving DecidableEq, Repr

/-- ALUOpKind, the eight values of the control vector's ALUOp (30_encoding.md R68). -/
inductive ALUOpKind where
  | add
  | sub
  | slt
  | sltu
  | and
  | or
  | sll16
  | rtype
deriving DecidableEq, Repr

/-- The seven operations the ALU performs (40_datapath.md R115, R118). -/
inductive AluOp where
  | add
  | sub
  | and
  | or
  | slt
  | sltu
  | sll16
deriving DecidableEq, Repr

/-- The control vector (30_encoding.md R67). -/
structure ControlVector where
  regDst : RegDst
  aluSrc : ALUSrc
  aluOp : ALUOpKind
  memtoReg : MemtoReg
  regWrite : Bool
  memRead : Bool
  memWrite : Bool
  branch : Bool
  jump : Bool
deriving DecidableEq, Repr

end Sys2Proof
end

