-- ==== Sys2Proof/Machine/Control.lean ====
section
/-! DEFINITION. The ControlDecoder: the decode table of 30_encoding.md R69 and the opcode map of R71. -/

namespace Sys2Proof

/-- The control vector of each recognised opcode, and none for any other, which raises IllegalOpcode
(30_encoding.md R69, R71). The `*` cells of R69 hold what the table holds (92_eei_decisions.md D4; log entry 9), beq's
ALUOp is SUB (D5; log entry 10) and sltiu's Branch is 0 (90_conflicts.md C2; log entry 14). -/
def controlDecoder (opcode : Opcode) : Option ControlVector :=
  if opcode = 0#6 then
    some { regDst := .r3, aluSrc := .reg, aluOp := .rtype, memtoReg := .alu, regWrite := true, memRead := false, memWrite := false, branch := false, jump := false }
  else if opcode = 2#6 then
    some { regDst := .na, aluSrc := .imm, aluOp := .add, memtoReg := .alu, regWrite := false, memRead := false, memWrite := false, branch := false, jump := true }
  else if opcode = 4#6 then
    some { regDst := .na, aluSrc := .reg, aluOp := .sub, memtoReg := .alu, regWrite := false, memRead := false, memWrite := false, branch := true, jump := false }
  else if opcode = 8#6 then
    some { regDst := .r2, aluSrc := .imm, aluOp := .add, memtoReg := .alu, regWrite := true, memRead := false, memWrite := false, branch := false, jump := false }
  else if opcode = 10#6 then
    some { regDst := .r2, aluSrc := .imm, aluOp := .slt, memtoReg := .alu, regWrite := true, memRead := false, memWrite := false, branch := false, jump := false }
  else if opcode = 11#6 then
    some { regDst := .r2, aluSrc := .imm, aluOp := .sltu, memtoReg := .alu, regWrite := true, memRead := false, memWrite := false, branch := false, jump := false }
  else if opcode = 15#6 then
    some { regDst := .r2, aluSrc := .imm, aluOp := .sll16, memtoReg := .alu, regWrite := true, memRead := false, memWrite := false, branch := false, jump := false }
  else if opcode = 35#6 then
    some { regDst := .r2, aluSrc := .imm, aluOp := .add, memtoReg := .mem, regWrite := true, memRead := true, memWrite := false, branch := false, jump := false }
  else if opcode = 43#6 then
    some { regDst := .na, aluSrc := .imm, aluOp := .add, memtoReg := .alu, regWrite := false, memRead := false, memWrite := true, branch := false, jump := false }
  else none

end Sys2Proof
end

