-- ==== Sys2Proof/Syntax.lean ====
section
/-! DEFINITION. The fourteen instructions (00_scope.md R3), one constructor per row of spec/opcode_table.json. -/

namespace Sys2Proof

/-- An instruction with its operand fields, in the order of the word's fields (30_encoding.md R60, R61). Each field
has exactly the width the spec gives it. Bits 10–6 of a register-type word belong to no field and are dropped
(30_encoding.md R74; log entry 19). -/
inductive Instr where
  /-- add, opcode 0, funct 32 (41_register_type.md R141). -/
  | add (r1 r2 r3 : RegIdx)
  /-- sub, opcode 0, funct 34 (41_register_type.md R142). -/
  | sub (r1 r2 r3 : RegIdx)
  /-- and, opcode 0, funct 36 (41_register_type.md R143). -/
  | and (r1 r2 r3 : RegIdx)
  /-- or, opcode 0, funct 37 (41_register_type.md R144). -/
  | or (r1 r2 r3 : RegIdx)
  /-- slt, opcode 0, funct 42 (41_register_type.md R145). -/
  | slt (r1 r2 r3 : RegIdx)
  /-- sltu, opcode 0, funct 43 (41_register_type.md R146). -/
  | sltu (r1 r2 r3 : RegIdx)
  /-- j, opcode 2 (44_control_transfer.md R192). -/
  | j (target : Target)
  /-- beq, opcode 4 (44_control_transfer.md R191). -/
  | beq (r1 r2 : RegIdx) (offset : Offset)
  /-- addi, opcode 8 (42_immediate.md R161). -/
  | addi (r1 r2 : RegIdx) (offset : Offset)
  /-- slti, opcode 10 (42_immediate.md R162). -/
  | slti (r1 r2 : RegIdx) (offset : Offset)
  /-- sltiu, opcode 11 (42_immediate.md R163). -/
  | sltiu (r1 r2 : RegIdx) (offset : Offset)
  /-- lui, opcode 15 (42_immediate.md R164); r1 is a field of the word that the instruction ignores. -/
  | lui (r1 r2 : RegIdx) (offset : Offset)
  /-- lw, opcode 35 (43_load_store.md R181). -/
  | lw (r1 r2 : RegIdx) (offset : Offset)
  /-- sw, opcode 43 (43_load_store.md R182). -/
  | sw (r1 r2 : RegIdx) (offset : Offset)
deriving DecidableEq, Repr

end Sys2Proof
end

