-- ==== Sys2Proof/WellFormed.lean ====
section
/-! DEFINITION. Well-formedness. Every operand of `Instr` has exactly the width of its field (00_scope.md R9:
"i is always a 5-bit register field"), so no operand can be out of range; what remains to check is the control vector
that an instruction's opcode decodes to, which must meet the decoder invariants of 30_encoding.md R70. -/

namespace Sys2Proof

/-- RegDst "not applicable" never goes with RegWrite (30_encoding.md R70). -/
def ControlVector.namesItsDestination (c : ControlVector) : Bool := !(c.regWrite && c.regDst == .na)

/-- MemRead and MemWrite are never both asserted (30_encoding.md R70; 20_memory.md R47). -/
def ControlVector.oneMemoryAccess (c : ControlVector) : Bool := !(c.memRead && c.memWrite)

/-- Jump and Branch are never both asserted (30_encoding.md R70). -/
def ControlVector.oneTransfer (c : ControlVector) : Bool := !(c.jump && c.branch)

/-- RegWrite and MemWrite are never both asserted (30_encoding.md R70). -/
def ControlVector.oneDestination (c : ControlVector) : Bool := !(c.regWrite && c.memWrite)

/-- MemtoReg selects the loaded word only where MemRead is asserted (30_encoding.md R70). -/
def ControlVector.loadsWhatItSelects (c : ControlVector) : Bool := !(c.memtoReg == .mem && !c.memRead)

/-- The decoder invariants of 30_encoding.md R70, all together. -/
def ControlVector.wellFormed (c : ControlVector) : Bool :=
  c.namesItsDestination && c.oneMemoryAccess && c.oneTransfer && c.oneDestination && c.loadsWhatItSelects

/-- The opcode of an instruction (30_encoding.md R71). -/
def Instr.opcode (i : Instr) : Opcode :=
  match i with
  | .add _ _ _ => 0#6
  | .sub _ _ _ => 0#6
  | .and _ _ _ => 0#6
  | .or _ _ _ => 0#6
  | .slt _ _ _ => 0#6
  | .sltu _ _ _ => 0#6
  | .j _ => 2#6
  | .beq _ _ _ => 4#6
  | .addi _ _ _ => 8#6
  | .slti _ _ _ => 10#6
  | .sltiu _ _ _ => 11#6
  | .lui _ _ _ => 15#6
  | .lw _ _ _ => 35#6
  | .sw _ _ _ => 43#6

/-- An instruction is well formed when its opcode has a control vector and that vector meets the decoder invariants. -/
def Instr.wellFormed (i : Instr) : Bool :=
  match controlDecoder i.opcode with
  | some c => c.wellFormed
  | none => false

end Sys2Proof
end

