-- ==== Sys2Proof/Decode.lean ====
section
/-! DEFINITION. InstructionPartition and its inverse, the decoder (total on every word and on any bytes, rejecting by
name), the encoder, and the byte view of a word (30_encoding.md R60–R75). -/

namespace Sys2Proof

/-- The four bytes of a word at rising addresses. DESIGN CHOICE (log entry 4): the most significant byte first; the
spec fixes no byte order and none is observable (20_memory.md R42; 92_eei_decisions.md D9). -/
def bytesOfWord (w : Word) : List Byte :=
  [w.extractLsb' 24 8, w.extractLsb' 16 8, w.extractLsb' 8 8, w.extractLsb' 0 8]

/-- The word that four bytes at rising addresses hold, in the order of `bytesOfWord`. -/
def wordOfBytes (b0 b1 b2 b3 : Byte) : Word := b0 ++ b1 ++ b2 ++ b3

/-- InstructionPartition: every field at its fixed bit positions (30_encoding.md R62). -/
def partition (w : Word) : Fields where
  opcode := w.extractLsb' 26 6
  r1 := w.extractLsb' 21 5
  r2 := w.extractLsb' 16 5
  r3 := w.extractLsb' 11 5
  funct := w.extractLsb' 0 6
  offset := w.extractLsb' 0 16
  target := w.extractLsb' 0 26

/-- pack for the R-type view, bits 10–6 zero (30_encoding.md R63). -/
def packR (opcode : Opcode) (r1 r2 r3 : RegIdx) (funct : Funct) : Word :=
  opcode ++ r1 ++ r2 ++ r3 ++ 0#5 ++ funct

/-- pack for the I-type view (30_encoding.md R63). -/
def packI (opcode : Opcode) (r1 r2 : RegIdx) (offset : Offset) : Word :=
  opcode ++ r1 ++ r2 ++ offset

/-- pack for the J-type view (30_encoding.md R63). -/
def packJ (opcode : Opcode) (target : Target) : Word :=
  opcode ++ target

/-- The two classes of word that spell no instruction (30_encoding.md R73). -/
inductive IllegalWord where
  /-- The opcode is outside the recognised set (R71): the step raises IllegalOpcode. -/
  | illegalOpcode
  /-- Opcode 0 with a funct outside the table (R72): the step raises InvalidALUSrcCombination. -/
  | invalidALUSrcCombination
deriving DecidableEq, Repr

/-- Why a sequence of bytes does not begin with an instruction. -/
inductive DecodeError where
  /-- Fewer than four bytes: never met by a step, which always fetches a whole word (log entry 21). -/
  | truncated
  /-- The first four bytes are a word that spells no instruction. -/
  | illegal (e : IllegalWord)
deriving DecidableEq, Repr

/-- The register-type instruction that the function code selects under opcode 0 (30_encoding.md R72). -/
def decodeRType (f : Fields) : Except IllegalWord Instr :=
  if f.funct = 32#6 then .ok (.add f.r1 f.r2 f.r3)
  else if f.funct = 34#6 then .ok (.sub f.r1 f.r2 f.r3)
  else if f.funct = 36#6 then .ok (.and f.r1 f.r2 f.r3)
  else if f.funct = 37#6 then .ok (.or f.r1 f.r2 f.r3)
  else if f.funct = 42#6 then .ok (.slt f.r1 f.r2 f.r3)
  else if f.funct = 43#6 then .ok (.sltu f.r1 f.r2 f.r3)
  else .error .invalidALUSrcCombination

/-- The instruction a partitioned word spells (30_encoding.md R71, R72, R73). -/
def decodeFields (f : Fields) : Except IllegalWord Instr :=
  if f.opcode = 0#6 then decodeRType f
  else if f.opcode = 2#6 then .ok (.j f.target)
  else if f.opcode = 4#6 then .ok (.beq f.r1 f.r2 f.offset)
  else if f.opcode = 8#6 then .ok (.addi f.r1 f.r2 f.offset)
  else if f.opcode = 10#6 then .ok (.slti f.r1 f.r2 f.offset)
  else if f.opcode = 11#6 then .ok (.sltiu f.r1 f.r2 f.offset)
  else if f.opcode = 15#6 then .ok (.lui f.r1 f.r2 f.offset)
  else if f.opcode = 35#6 then .ok (.lw f.r1 f.r2 f.offset)
  else if f.opcode = 43#6 then .ok (.sw f.r1 f.r2 f.offset)
  else .error .illegalOpcode

/-- The decoder on a word: total, and every word that spells no instruction is rejected by name. -/
def decodeWord (w : Word) : Except IllegalWord Instr := decodeFields (partition w)

/-- The decoder on bytes at rising addresses: the instruction and the bytes after it. Every instruction is one word
(30_encoding.md R75). -/
def decodeBytes (bytes : List Byte) : Except DecodeError (Instr × List Byte) :=
  match bytes with
  | b0 :: b1 :: b2 :: b3 :: rest =>
    match decodeWord (wordOfBytes b0 b1 b2 b3) with
    | .ok i => .ok (i, rest)
    | .error e => .error (.illegal e)
  | _ => .error .truncated

/-- The encoder: the word of an instruction, packed as 30_encoding.md R63 and R76 say. -/
def encode (i : Instr) : Word :=
  match i with
  | .add r1 r2 r3 => packR 0#6 r1 r2 r3 32#6
  | .sub r1 r2 r3 => packR 0#6 r1 r2 r3 34#6
  | .and r1 r2 r3 => packR 0#6 r1 r2 r3 36#6
  | .or r1 r2 r3 => packR 0#6 r1 r2 r3 37#6
  | .slt r1 r2 r3 => packR 0#6 r1 r2 r3 42#6
  | .sltu r1 r2 r3 => packR 0#6 r1 r2 r3 43#6
  | .j target => packJ 2#6 target
  | .beq r1 r2 offset => packI 4#6 r1 r2 offset
  | .addi r1 r2 offset => packI 8#6 r1 r2 offset
  | .slti r1 r2 offset => packI 10#6 r1 r2 offset
  | .sltiu r1 r2 offset => packI 11#6 r1 r2 offset
  | .lui r1 r2 offset => packI 15#6 r1 r2 offset
  | .lw r1 r2 offset => packI 35#6 r1 r2 offset
  | .sw r1 r2 offset => packI 43#6 r1 r2 offset

/-- The word with the low nbits bits of w and zeros above, as the opcode table numbers bits. -/
def tableWord (nbits w : Nat) : Word := BitVec.ofNat 32 (w % 2 ^ nbits)

/-- What the decoder reads from the bytes of an instruction whose bits are w, numbered as spec/opcode_table.json
numbers them. -/
def decodeTableWord (nbits w : Nat) : Option Instr :=
  match decodeBytes (bytesOfWord (tableWord nbits w)) with
  | .ok (i, _) => some i
  | .error _ => none

end Sys2Proof
end

