-- ==== Sys2Proof/Machine/State.lean ====
section
/-! DEFINITION. The state of the machine (10_state.md R20), the six faults (60_exceptions.md R200), the refusal the
host's interface asks for, and the launch and reset states (70_reset_and_hazards.md R230). -/

namespace Sys2Proof.Machine

/-- The memory image (10_state.md R28) as (byte address, byte) cells, addresses strictly rising, no cell equal to what
an unlisted address reads as (`Memory.wf` in Machine/Ops.lean). -/
abbrev Memory := List Host.Cell

/-- The six faults (60_exceptions.md R200), in the spec's order. Each is the spec's own result value, returned with the
state unchanged (R202), so stopping with it is safe: the hardware stops the same way. -/
inductive Fault where
  /-- Raised by the fetch when pc < 65536 is not a multiple of 4 (40_datapath.md R103). Safe. -/
  | misalignedFetch
  /-- Raised by the fetch when pc ≥ 65536 (40_datapath.md R103). Safe. -/
  | outOfBoundsFetch
  /-- Raised by the decoder on an opcode outside the recognised set (30_encoding.md R71, R73). Safe. -/
  | illegalOpcode
  /-- Raised by the operation selector on opcode 0 with a funct outside the table (40_datapath.md R111). Safe. -/
  | invalidALUSrcCombination
  /-- Raised by lw and sw when the address < 65536 is not a multiple of 4 (20_memory.md R43). Safe. -/
  | misalignedMemoryAccess
  /-- Raised by lw and sw when the address ≥ 65536 (20_memory.md R43). Safe. -/
  | outOfBoundsMemoryAccess
deriving DecidableEq, Repr

/-- The reasons an instruction could have no meaning. -/
inductive Refusal where
  /-- An instruction not modelled yet, by its mnemonic. No arm of exec answers with it: all fourteen instructions have
  their meaning. Stopping with it would be safe. -/
  | notModelled (mnemonic : String)
deriving DecidableEq, Repr

/-- The three objects of 10_state.md R20, and the parameters a step is a function of beside them (00_scope.md R7). -/
structure State where
  /-- The register file: 32 registers of 32 bits, `$0` .. `$31` (10_state.md R21). -/
  regs : Vector Word 32
  /-- The memory image (10_state.md R28). -/
  mem : Memory
  /-- The program counter: the byte address of the instruction the next step executes (10_state.md R24). -/
  pc : Word
  /-- The parameters, which no step changes (70_reset_and_hazards.md R230; log entry 5). -/
  params : Params
deriving DecidableEq, Repr

/-- The launch state of a run, from the driver's initRegs, initMem and initPC and the parameters
(70_reset_and_hazards.md R230, R231). -/
def State.launch (params : Params) (initRegs : Vector Word 32) (initMem : Memory) (initPC : Word) : State :=
  { regs := initRegs, mem := initMem, pc := initPC, params := params }

/-- The state after reset. The core has no reset (70_reset_and_hazards.md R230) and the spec leaves every launch value
open. DESIGN CHOICE: every register 0 (log entry 1), pc 0 (log entry 2), nothing listed in memory (log entry 3); the
parameters at the spec's defaults (log entry 5). -/
def State.reset : State := State.launch Params.default (Vector.replicate 32 0#32) [] 0#32

end Sys2Proof.Machine
end

