-- ==== Sys2Proof/Machine/Ops.lean ====
section
/-! DEFINITION. The named operations over registers, memory and the program counter, the address checks, raising a
fault, and the driver's view of an outcome. -/

namespace Sys2Proof.Machine

/-- The outcome of one step or of one instruction. -/
abbrev Result := Host.Outcome State Fault Refusal

/-! ### Memory as bytes and as words -/

/-- What an address with no cell reads as. DESIGN CHOICE (log entry 3): the spec leaves initMem open. -/
def unlistedByte : Byte := 0#8

/-- The byte at an address. -/
def Memory.readByte : Memory → Nat → Byte
  | [], _ => unlistedByte
  | (a, b) :: m, k => if a = k then b else Memory.readByte m k

/-- The memory with one byte changed, kept in canonical form: a byte equal to `unlistedByte` has no cell. -/
def Memory.writeByte : Memory → Nat → Byte → Memory
  | [], k, v => if v = unlistedByte then [] else [(k, v)]
  | (a, b) :: m, k, v =>
    if a < k then (a, b) :: Memory.writeByte m k v
    else if a = k then (if v = unlistedByte then m else (k, v) :: m)
    else (if v = unlistedByte then (a, b) :: m else (k, v) :: (a, b) :: m)

/-- The canonical form from an address up: cells at strictly rising addresses of [lo, 65536), none of them equal to
`unlistedByte`. -/
def Memory.wfFrom : Nat → Memory → Bool
  | _, [] => true
  | lo, (a, b) :: m => decide (lo ≤ a) && decide (a < Config.memBytes) && decide (b ≠ unlistedByte) && Memory.wfFrom (a + 1) m

/-- The canonical form of a memory. -/
def Memory.wf (m : Memory) : Bool := Memory.wfFrom 0 m

/-- MemRead(addr, 4): the word at byte address a (20_memory.md R40), in the byte order of log entry 4. -/
def Memory.readWord (m : Memory) (a : Nat) : Word :=
  wordOfBytes (Memory.readByte m a) (Memory.readByte m (a + 1)) (Memory.readByte m (a + 2)) (Memory.readByte m (a + 3))

/-- Consecutive bytes written from byte address a up. -/
def Memory.writeBytes (m : Memory) (a : Nat) : List Byte → Memory
  | [] => m
  | b :: bs => Memory.writeBytes (Memory.writeByte m a b) (a + 1) bs

/-- MemWrite(addr, 4, v): the word at byte address a replaced (20_memory.md R40). -/
def Memory.writeWord (m : Memory) (a : Nat) (v : Word) : Memory := Memory.writeBytes m a (bytesOfWord v)

/-- Consecutive words written from byte address a up, as a driver places the words of a program in initMem
(70_reset_and_hazards.md R230, R231). -/
def Memory.loadWords (m : Memory) (a : Nat) : List Word → Memory
  | [] => m
  | w :: ws => Memory.loadWords (Memory.writeWord m a w) (a + 4) ws

/-- The byte at an address of the state's memory. -/
def State.readByte (s : State) (a : Nat) : Byte := Memory.readByte s.mem a

/-! ### Registers and the program counter -/

/-- The contents of slot i of the register file, whatever R0_HARDWIRED is. -/
def State.slot (s : State) (i : RegIdx) : Word := s.regs[i.toNat]

/-- RegisterRead of one port: x[i], and 0 for register 0 with R0_HARDWIRED = true (40_datapath.md R105; 10_state.md R22). -/
def State.readReg (s : State) (i : RegIdx) : Word :=
  if s.params.r0Hardwired && i == 0#5 then 0#32 else s.slot i

/-- The register file's write path: x[i] <- v, discarded for register 0 with R0_HARDWIRED = true (10_state.md R22;
40_datapath.md R126). -/
def State.writeReg (s : State) (i : RegIdx) (v : Word) : State :=
  if s.params.r0Hardwired && i == 0#5 then s else { s with regs := s.regs.set i.toNat v }

/-- pc <- target (10_state.md R24). -/
def State.setPc (s : State) (target : Word) : State := { s with pc := target }

/-- pc <- pc + 4, modulo 2^32 (40_datapath.md R130; 92_eei_decisions.md D10, log entry 13). -/
def State.advance (s : State) : State := s.setPc (s.pc + 4#32)

/-- One memory word replaced in the state. -/
def State.writeMem (s : State) (a : Nat) (v : Word) : State := { s with mem := Memory.writeWord s.mem a v }

/-- The commit of an instruction that writes one register and goes on to the next one (40_datapath.md R102, R126). -/
def State.commitReg (s : State) (d : RegIdx) (v : Word) : State := (s.writeReg d v).advance

/-! ### Faults -/

/-- `raise <Fault>`: the step ends with the named fault and commits nothing (60_exceptions.md R202). There is no trap
entry to model (60_exceptions.md R204): this is the one shared operation by which every fault is taken. -/
def raise (f : Fault) : Result := .fault f

/-- The numeric result code of each fault (60_exceptions.md R200; 92_eei_decisions.md D8, log entry 15). -/
def Fault.code (f : Fault) : Nat :=
  match f with
  | .misalignedFetch => 1
  | .outOfBoundsFetch => 2
  | .illegalOpcode => 3
  | .invalidALUSrcCombination => 4
  | .misalignedMemoryAccess => 5
  | .outOfBoundsMemoryAccess => 6

/-- The fault that a word which spells no instruction raises (30_encoding.md R73). -/
def faultOfIllegal (e : IllegalWord) : Fault :=
  match e with
  | .illegalOpcode => .illegalOpcode
  | .invalidALUSrcCombination => .invalidALUSrcCombination

/-- The result code the driver receives: 0 when the step completed, the fault's code when it faulted
(60_exceptions.md R200). A refusal, which no step gives, has none. -/
def resultCode (r : Result) : Option Nat :=
  match r with
  | .next _ => some 0
  | .fault f => some f.code
  | .refused _ => none

/-- The state the driver holds after an invocation on s that answered r: the next state, or s unchanged
(60_exceptions.md R202; 70_reset_and_hazards.md R232). -/
def stateAfter (s : State) (r : Result) : State :=
  match r with
  | .next t => t
  | .fault _ => s
  | .refused _ => s

/-! ### Address checks and fetch -/

/-- The fetch check: bounds first, then alignment (40_datapath.md R103; 90_conflicts.md C5, log entry 12). -/
def checkFetch (pc : Word) : Option Fault :=
  if Config.memBytes ≤ pc.toNat then some .outOfBoundsFetch
  else if pc.toNat % 4 ≠ 0 then some .misalignedFetch
  else none

/-- The data check of an asserted memory operation: bounds first, then alignment (20_memory.md R43;
92_eei_decisions.md D7, log entry 12). -/
def checkData (addr : Word) : Option Fault :=
  if Config.memBytes ≤ addr.toNat then some .outOfBoundsMemoryAccess
  else if addr.toNat % 4 ≠ 0 then some .misalignedMemoryAccess
  else none

/-- InstructionFetch: the word at pc, or the fault of the fetch check, in which case memory is not read
(40_datapath.md R103). -/
def fetch (s : State) : Except Fault Word :=
  match checkFetch s.pc with
  | some f => .error f
  | none => .ok (Memory.readWord s.mem s.pc.toNat)

end Sys2Proof.Machine
end

