-- ==== Sys2Proof/Machine/Operands.lean ====
section
/-! DEFINITION. Every operand form: the SignExtender, the assembled immediates, the effective address, the store data,
and the two computed targets (30_encoding.md R64, R65, R66; 43_load_store.md R180; 40_datapath.md R130). -/

namespace Sys2Proof.Machine

/-- SignExtender: imm32 = sext_32(offset) (30_encoding.md R64). -/
def signExtend32 (offset : Offset) : Word := offset.signExtend 32

/-- ShiftLeftImmediate of the extended offset, lui's upper half-word (30_encoding.md R65; 42_immediate.md R164). -/
def upperHalf (offset : Offset) : Word := signExtend32 offset <<< 16

/-- The address of lw and sw: base plus signed byte offset, modulo 2^32 (43_load_store.md R180). -/
def effectiveAddress (s : State) (r1 : RegIdx) (offset : Offset) : Word := s.readReg r1 + signExtend32 offset

/-- The word sw stores: x[r2] or x[r1], by STORE_DATA_FIELD (20_memory.md R46; 90_conflicts.md C3). -/
def storeData (s : State) (r1 r2 : RegIdx) : Word :=
  match s.params.storeDataField with
  | .r2 => s.readReg r2
  | .r1 => s.readReg r1

/-- The target of a taken branch at pc (40_datapath.md R130). -/
def branchTarget (pc : Word) (offset : Offset) : Word := pc + 4#32 + (signExtend32 offset <<< 2)

/-- The target of a jump at pc: the top four bits of the jump's own pc, then the word address (40_datapath.md R130;
90_conflicts.md C7). -/
def jumpTarget (pc : Word) (target : Target) : Word := (pc &&& 0xF0000000#32) ||| (target.zeroExtend 32 <<< 2)

end Sys2Proof.Machine
end

