-- ==== Sys2Proof/Machine/ControlTransfer.lean ====
section
/-! DEFINITION. beq and j (44_control_transfer.md R190–R192). They write only the program counter and never fault; a
target outside memory faults at the next fetch (40_datapath.md R132). There is no delay slot (40_datapath.md R131). -/

namespace Sys2Proof.Machine

/-- beq: the branch is taken when the Zero flag of x[r1] - x[r2] is set (44_control_transfer.md R191). -/
def execBeq (r1 r2 : RegIdx) (offset : Offset) (s : State) : Result :=
  if zeroFlag (s.readReg r1 - s.readReg r2) then .next (s.setPc (branchTarget s.pc offset)) else .next s.advance

/-- j (44_control_transfer.md R192). -/
def execJ (target : Target) (s : State) : Result := .next (s.setPc (jumpTarget s.pc target))

end Sys2Proof.Machine
end

