-- ==== Sys2Proof/Machine/Immediate.lean ====
section
/-! DEFINITION. The immediate instructions (42_immediate.md R160–R164): x[r2] <- x[r1] op sext_32(offset);
pc <- pc + 4. None of them faults. -/

namespace Sys2Proof.Machine

/-- addi: wraps modulo 2^32, never traps (42_immediate.md R161). -/
def execAddi (r1 r2 : RegIdx) (offset : Offset) (s : State) : Result :=
  .next (s.commitReg r2 (s.readReg r1 + signExtend32 offset))

/-- slti (42_immediate.md R162). -/
def execSlti (r1 r2 : RegIdx) (offset : Offset) (s : State) : Result :=
  .next (s.commitReg r2 (flagWord (ltSigned s.params (s.readReg r1) (signExtend32 offset))))

/-- sltiu: the immediate is sign-extended and only the comparison is unsigned (42_immediate.md R163). -/
def execSltiu (r1 r2 : RegIdx) (offset : Offset) (s : State) : Result :=
  .next (s.commitReg r2 (flagWord (ltUnsigned s.params (s.readReg r1) (signExtend32 offset))))

/-- lui: offset ++ 0x0000; x[r1] is read by the datapath and ignored (42_immediate.md R164; 30_encoding.md R74). -/
def execLui (_r1 r2 : RegIdx) (offset : Offset) (s : State) : Result := .next (s.commitReg r2 (upperHalf offset))

end Sys2Proof.Machine
end

