-- ==== Sys2Proof/Machine/LoadStore.lean ====
section
/-! DEFINITION. lw and sw (43_load_store.md R180–R182). A fault of the address check ends the step with nothing read,
written or committed. -/

namespace Sys2Proof.Machine

/-- lw (43_load_store.md R181). The address comes from the base before the step, also when r2 = r1. -/
def execLw (r1 r2 : RegIdx) (offset : Offset) (s : State) : Result :=
  match checkData (effectiveAddress s r1 offset) with
  | some f => raise f
  | none => .next (s.commitReg r2 (Memory.readWord s.mem (effectiveAddress s r1 offset).toNat))

/-- sw (43_load_store.md R182). -/
def execSw (r1 r2 : RegIdx) (offset : Offset) (s : State) : Result :=
  match checkData (effectiveAddress s r1 offset) with
  | some f => raise f
  | none => .next (s.writeMem (effectiveAddress s r1 offset).toNat (storeData s r1 r2)).advance

end Sys2Proof.Machine
end

