-- ==== Sys2Proof/Machine/RegisterType.lean ====
section
/-! DEFINITION. The register-type instructions (41_register_type.md R140–R146): x[r3] <- x[r1] op x[r2];
pc <- pc + 4. None of them faults. -/

namespace Sys2Proof.Machine

/-- add: wraps modulo 2^32, never traps (41_register_type.md R141). -/
def execAdd (r1 r2 r3 : RegIdx) (s : State) : Result := .next (s.commitReg r3 (s.readReg r1 + s.readReg r2))

/-- sub: x[r1] - x[r2], wraps modulo 2^32 (41_register_type.md R142; operand order 92_eei_decisions.md D6, log entry 11). -/
def execSub (r1 r2 r3 : RegIdx) (s : State) : Result := .next (s.commitReg r3 (s.readReg r1 - s.readReg r2))

/-- and (41_register_type.md R143). -/
def execAnd (r1 r2 r3 : RegIdx) (s : State) : Result := .next (s.commitReg r3 (s.readReg r1 &&& s.readReg r2))

/-- or (41_register_type.md R144). -/
def execOr (r1 r2 r3 : RegIdx) (s : State) : Result := .next (s.commitReg r3 (s.readReg r1 ||| s.readReg r2))

/-- slt (41_register_type.md R145; operand order 92_eei_decisions.md D6, log entry 11). -/
def execSlt (r1 r2 r3 : RegIdx) (s : State) : Result :=
  .next (s.commitReg r3 (flagWord (ltSigned s.params (s.readReg r1) (s.readReg r2))))

/-- sltu (41_register_type.md R146; operand order 92_eei_decisions.md D6, log entry 11). -/
def execSltu (r1 r2 r3 : RegIdx) (s : State) : Result :=
  .next (s.commitReg r3 (flagWord (ltUnsigned s.params (s.readReg r1) (s.readReg r2))))

end Sys2Proof.Machine
end

