-- ==== Sys2Proof/Machine/Step.lean ====
section
/-! DEFINITION. The step: fetch, decode, execute (40_datapath.md R100), and the placing of one instruction where the
step fetches it. -/

namespace Sys2Proof.Machine

/-- One step executes one instruction. The stage order gives the fault priority of 60_exceptions.md R203: fetch, then
decode and selection, then memory. Each fault leaves the state as it was. -/
def step (s : State) : Host.Outcome State Fault Refusal :=
  match fetch s with
  | .error f => raise f
  | .ok w =>
    match decodeWord w with
    | .error e => raise (faultOfIllegal e)
    | .ok i => exec i s

/-- s with one instruction stored at pc. From a pc that cannot be fetched (misaligned or outside memory) the instruction
is stored at 0 and pc set to 0, since the fetch needs a pc that passes its check (log entry 7). -/
def State.withFetchWord (s : State) (nbits w : Nat) : State :=
  match checkFetch s.pc with
  | none => s.writeMem s.pc.toNat (tableWord nbits w)
  | some _ => (s.setPc 0#32).writeMem 0 (tableWord nbits w)

end Sys2Proof.Machine
end

