-- ==== Sys2Proof/Machine/Datapath.lean ====
section
/-! DEFINITION. The same step a second time, as the ten components of 00_scope.md R2 driven by the control vector
(40_datapath.md R100–R130; 20_memory.md R43–R46). An obligation says that it equals `step`. -/

namespace Sys2Proof.Machine

/-- The operation the function code selects under opcode 0 (40_datapath.md R111; 30_encoding.md R72). -/
def functOperation (funct : Funct) : Option AluOp :=
  if funct = 32#6 then some .add
  else if funct = 34#6 then some .sub
  else if funct = 36#6 then some .and
  else if funct = 37#6 then some .or
  else if funct = 42#6 then some .slt
  else if funct = 43#6 then some .sltu
  else none

/-- The operation ALUOp names under ALUSrc = Imm (40_datapath.md R112). -/
def immediateOperation (aluOp : ALUOpKind) : Option AluOp :=
  match aluOp with
  | .add => some .add
  | .slt => some .slt
  | .sltu => some .sltu
  | .sll16 => some .sll16
  | .sub => none
  | .and => none
  | .or => none
  | .rtype => none

/-- The operation choice of OperandAndOpSelector; none raises InvalidALUSrcCombination. Under ALUSrc = Reg the branch
context, ALUOp = SUB, is tested before the function code (40_datapath.md R111, R112; 92_eei_decisions.md D5,
log entry 10). -/
def selectOperation (aluSrc : ALUSrc) (aluOp : ALUOpKind) (funct : Funct) : Option AluOp :=
  match aluSrc with
  | .reg => if aluOp = .sub then some .sub else functOperation funct
  | .imm => immediateOperation aluOp

/-- The second-operand multiplexer of OperandAndOpSelector (40_datapath.md R110). -/
def selectOperand (aluSrc : ALUSrc) (rd2 imm32 : Word) : Word :=
  match aluSrc with
  | .reg => rd2
  | .imm => imm32

/-- The ALU's result (40_datapath.md R115). It takes the seven-valued type and has no fault case (R118). -/
def aluResult (p : Params) (op : AluOp) (a b : Word) : Word :=
  match op with
  | .add => a + b
  | .sub => a - b
  | .and => a &&& b
  | .or => a ||| b
  | .slt => flagWord (ltSigned p a b)
  | .sltu => flagWord (ltUnsigned p a b)
  | .sll16 => b <<< 16

/-- The MemoryUnit's check: only an asserted operation is checked (20_memory.md R43, R44). -/
def memoryUnitFault (c : ControlVector) (addr : Word) : Option Fault :=
  if c.memRead || c.memWrite then checkData addr else none

/-- The MemoryUnit's readData: the word when MemRead is asserted, a free value otherwise (20_memory.md R45;
93_implementation_defined.md I9, log entry 16). -/
def memoryUnitRead (c : ControlVector) (m : Memory) (addr : Word) : Word :=
  if c.memRead then Memory.readWord m addr.toNat else Config.undrivenReadData addr

/-- The MemoryUnit's pending write, committed at the end of the step (20_memory.md R46). -/
def memoryUnitWrite (c : ControlVector) (s : State) (addr data : Word) : State :=
  if c.memWrite then s.writeMem addr.toNat data else s

/-- The writeback data multiplexer (40_datapath.md R127). -/
def writebackData (c : ControlVector) (readData result : Word) : Word :=
  match c.memtoReg with
  | .mem => readData
  | .alu => result

/-- RegisterWriteback: the write of r2 or r3 when RegWrite is asserted (40_datapath.md R126). RegDst "not applicable"
writes nothing; it never comes with RegWrite (30_encoding.md R70). -/
def registerWriteback (c : ControlVector) (s : State) (r2 r3 : RegIdx) (data : Word) : State :=
  if c.regWrite then
    match c.regDst with
    | .r2 => s.writeReg r2 data
    | .r3 => s.writeReg r3 data
    | .na => s
  else s

/-- ProgramCounterUpdate (40_datapath.md R130). -/
def pcUpdate (pc : Word) (jump branch zero : Bool) (imm32 : Word) (target : Target) : Word :=
  if jump then (pc &&& 0xF0000000#32) ||| (target.zeroExtend 32 <<< 2)
  else if branch && zero then pc + 4#32 + (imm32 <<< 2)
  else pc + 4#32

/-- One step through the ten components in order; every read sees the state before the step and the writes commit
together at the end (40_datapath.md R100, R102). -/
def datapathStep (s : State) : Result :=
  match fetch s with
  | .error f => raise f
  | .ok w =>
    let f := partition w
    match controlDecoder f.opcode with
    | none => raise .illegalOpcode
    | some c =>
      let a := s.readReg f.r1
      let rd2 := s.readReg f.r2
      let imm32 := signExtend32 f.offset
      match selectOperation c.aluSrc c.aluOp f.funct with
      | none => raise .invalidALUSrcCombination
      | some op =>
        let b := selectOperand c.aluSrc rd2 imm32
        let result := aluResult s.params op a b
        match memoryUnitFault c result with
        | some e => raise e
        | none =>
          let data := writebackData c (memoryUnitRead c s.mem result) result
          let nextPC := pcUpdate s.pc c.jump c.branch (zeroFlag result) imm32 f.target
          .next ((registerWriteback c (memoryUnitWrite c s result (storeData s f.r1 f.r2)) f.r2 f.r3 data).setPc nextPC)

end Sys2Proof.Machine
end

