-- ==== Sys2Proof/Machine/Run.lean ====
section
/-! DEFINITION. A run of the machine under a driver (70_reset_and_hazards.md R232, R233; 60_exceptions.md R205). -/

namespace Sys2Proof.Machine

/-- How far a run has come, with the state the driver holds. -/
inductive RunStatus where
  /-- The given number of steps committed and the run can go on. -/
  | running (s : State)
  /-- The driver's stop condition held before a step. -/
  | stopped (s : State)
  /-- A step returned a fault: the state is the one the faulting step found (60_exceptions.md R202, R205). -/
  | faulted (f : Fault) (s : State)
  /-- A step was refused: no step of this machine is. -/
  | refused (r : Refusal) (s : State)
deriving DecidableEq, Repr

/-- At most n steps from s. The run ends at the first step that faults or when driverStop, the driver's own condition,
holds before a step (70_reset_and_hazards.md R233). The driver changes no state between steps (R232; log entry 8). -/
def run (driverStop : State → Bool) : Nat → State → RunStatus
  | 0, s => .running s
  | n + 1, s =>
    if driverStop s then .stopped s
    else
      match step s with
      | .next t => run driverStop n t
      | .fault f => .faulted f s
      | .refused r => .refused r s

end Sys2Proof.Machine
end

