-- ==== Sys2Proof/Safety.lean ====
section
/-! DEFINITION. The terms in which claims are made: what a fetchable pc and an accessible address are, the invariant of
the machine, and what writing one register or one word changes. -/

namespace Sys2Proof.Machine

/-- A program counter that the fetch accepts (40_datapath.md R103). -/
def Fetchable (pc : Word) : Prop := pc.toNat < 65536 ∧ pc.toNat % 4 = 0

/-- A data address that the MemoryUnit accepts (20_memory.md R43). -/
def Accessible (addr : Word) : Prop := addr.toNat < 65536 ∧ addr.toNat % 4 = 0

/-- The invariant: memory in canonical form, pc a multiple of 4 (10_state.md R24; 40_datapath.md R132). -/
def Inv (s : State) : Prop := Memory.wf s.mem = true ∧ s.pc.toNat % 4 = 0

/-- Register 0 is hard-wired and d names it: a write to d is discarded (10_state.md R22). -/
def Discarded (s : State) (d : RegIdx) : Prop := s.params.r0Hardwired = true ∧ d = 0#5

/-- x[d] <- v: the register holds v in t, or, where the write is discarded, what it held in s (10_state.md R22;
40_datapath.md R126). -/
def RegisterBecomes (d : RegIdx) (v : Word) (s t : State) : Prop :=
  (¬ Discarded s d → t.slot d = v) ∧ (Discarded s d → t.slot d = s.slot d)

/-- Every register other than d holds in t what it held in s. -/
def SameRegsExcept (d : RegIdx) (s t : State) : Prop := ∀ i, i ≠ d → t.slot i = s.slot i

/-- x[d] <- v and nothing else of the register file changed. -/
def WritesReg (d : RegIdx) (v : Word) (s t : State) : Prop := RegisterBecomes d v s t ∧ SameRegsExcept d s t

/-- A < B as SetLessThan(signed) compares them: by the signed readings with SLT_INVERTED = false, by the unsigned ones
with SLT_INVERTED = true (40_datapath.md R115). -/
def LessSigned (p : Params) (a b : Word) : Prop :=
  (p.sltInverted = false ∧ a.toInt < b.toInt) ∨ (p.sltInverted = true ∧ a.toNat < b.toNat)

/-- A < B as SetLessThan(unsigned) compares them: by the unsigned readings with SLT_INVERTED = false, by the signed ones
with SLT_INVERTED = true (40_datapath.md R115). -/
def LessUnsigned (p : Params) (a b : Word) : Prop :=
  (p.sltInverted = false ∧ a.toNat < b.toNat) ∨ (p.sltInverted = true ∧ a.toInt < b.toInt)

/-- No register of t differs from s. -/
def SameRegs (s t : State) : Prop := ∀ i, t.slot i = s.slot i

/-- Every byte of memory reads in t as it did in s. -/
def SameMemory (s t : State) : Prop := ∀ a, t.readByte a = s.readByte a

/-- Every byte outside the word at byte address a reads in t as it did in s. -/
def SameMemoryOutside (a : Nat) (s t : State) : Prop := ∀ k, (k < a ∨ a + 4 ≤ k) → t.readByte k = s.readByte k

/-- A state from which a step completes. -/
def Completes (s : State) : Prop := ∃ t, step s = .next t

end Sys2Proof.Machine
end

