-- ==== Sys2Proof/Certificates/Slice0/Obligations.lean ====
section
/-! DEFINITION. The statements for the provers. Each docstring names the rule of spec/ it formalises, or the sentence and
the log entry it rests on where the spec marks the clause as its own decision or inference. -/

open Sys2Proof Sys2Proof.Machine

/-! ### Encoding and decoding -/

/-- 30_encoding.md R62: each field is the unsigned number at its bit positions, for every word. -/
def Obligations.PartitionReadsFields : Prop :=
  ∀ w : Word,
    (partition w).opcode.toNat = w.toNat / 2 ^ 26 ∧
    (partition w).r1.toNat = w.toNat / 2 ^ 21 % 2 ^ 5 ∧
    (partition w).r2.toNat = w.toNat / 2 ^ 16 % 2 ^ 5 ∧
    (partition w).r3.toNat = w.toNat / 2 ^ 11 % 2 ^ 5 ∧
    (partition w).funct.toNat = w.toNat % 2 ^ 6 ∧
    (partition w).offset.toNat = w.toNat % 2 ^ 16 ∧
    (partition w).target.toNat = w.toNat % 2 ^ 26

/-- 30_encoding.md R63: pack places each field by its shift, and partition recovers the fields of each view. -/
def Obligations.PartitionInvertsPack : Prop :=
  (∀ (op : Opcode) (r1 r2 r3 : RegIdx) (funct : Funct),
    (packR op r1 r2 r3 funct).toNat =
      op.toNat * 2 ^ 26 + r1.toNat * 2 ^ 21 + r2.toNat * 2 ^ 16 + r3.toNat * 2 ^ 11 + funct.toNat ∧
    (partition (packR op r1 r2 r3 funct)).opcode = op ∧ (partition (packR op r1 r2 r3 funct)).r1 = r1 ∧
    (partition (packR op r1 r2 r3 funct)).r2 = r2 ∧ (partition (packR op r1 r2 r3 funct)).r3 = r3 ∧
    (partition (packR op r1 r2 r3 funct)).funct = funct) ∧
  (∀ (op : Opcode) (r1 r2 : RegIdx) (offset : Offset),
    (packI op r1 r2 offset).toNat = op.toNat * 2 ^ 26 + r1.toNat * 2 ^ 21 + r2.toNat * 2 ^ 16 + offset.toNat ∧
    (partition (packI op r1 r2 offset)).opcode = op ∧ (partition (packI op r1 r2 offset)).r1 = r1 ∧
    (partition (packI op r1 r2 offset)).r2 = r2 ∧ (partition (packI op r1 r2 offset)).offset = offset) ∧
  (∀ (op : Opcode) (target : Target),
    (packJ op target).toNat = op.toNat * 2 ^ 26 + target.toNat ∧
    (partition (packJ op target)).opcode = op ∧ (partition (packJ op target)).target = target)

/-- Decoding the encoded word of any instruction gives the instruction back, every operand at every value. -/
def Obligations.DecodeEncodeAgree : Prop :=
  ∀ i : Instr, decodeWord (encode i) = .ok i

/-- Encoding what a word decodes to gives the word back, but for the ignored bits 10–6 of a register-type word, which
become zero (30_encoding.md section 5 and R63's pack; log entry 19). -/
def Obligations.EncodeRestoresWord : Prop :=
  ∀ (w : Word) (i : Instr), decodeWord w = .ok i →
    encode i = if (partition w).opcode = 0#6 then w &&& 0xFFFFF83F#32 else w

/-- Words written out from the spec's own examples decode to their instructions (30_encoding.md section 6;
95_test_vectors.md Part 2). -/
def Obligations.ExampleWordsDecode : Prop :=
  decodeWord 0x00221820#32 = .ok (.add 1 2 3) ∧ decodeWord 0x00221822#32 = .ok (.sub 1 2 3) ∧
  decodeWord 0x00221824#32 = .ok (.and 1 2 3) ∧ decodeWord 0x00221825#32 = .ok (.or 1 2 3) ∧
  decodeWord 0x0022182A#32 = .ok (.slt 1 2 3) ∧ decodeWord 0x0022182B#32 = .ok (.sltu 1 2 3) ∧
  decodeWord 0x08001000#32 = .ok (.j 0x1000) ∧ decodeWord 0x10220002#32 = .ok (.beq 1 2 2) ∧
  decodeWord 0x20A60003#32 = .ok (.addi 5 6 3) ∧ decodeWord 0x2822FFFF#32 = .ok (.slti 1 2 0xFFFF) ∧
  decodeWord 0x2C22FFFF#32 = .ok (.sltiu 1 2 0xFFFF) ∧ decodeWord 0x3CE21234#32 = .ok (.lui 7 2 0x1234) ∧
  decodeWord 0x8C220008#32 = .ok (.lw 1 2 8) ∧ decodeWord 0xAC220008#32 = .ok (.sw 1 2 8)

/-- 30_encoding.md R71: the recognised opcodes have a control vector and spell the map's instruction; nine opcodes of the
64 are recognised; any other opcode has no control vector and the step raises IllegalOpcode. -/
def Obligations.OpcodeMapIsTotal : Prop :=
  (∀ op : Opcode, (controlDecoder op).isSome = true ↔ op ∈ ([0#6, 2#6, 4#6, 8#6, 10#6, 11#6, 15#6, 35#6, 43#6] : List Opcode)) ∧
  ((List.finRange 64).filter fun n => (controlDecoder (BitVec.ofFin n)).isSome).length = 9 ∧
  (∀ w : Word,
    ((partition w).opcode = 2#6 → decodeWord w = .ok (.j (partition w).target)) ∧
    ((partition w).opcode = 4#6 → decodeWord w = .ok (.beq (partition w).r1 (partition w).r2 (partition w).offset)) ∧
    ((partition w).opcode = 8#6 → decodeWord w = .ok (.addi (partition w).r1 (partition w).r2 (partition w).offset)) ∧
    ((partition w).opcode = 10#6 → decodeWord w = .ok (.slti (partition w).r1 (partition w).r2 (partition w).offset)) ∧
    ((partition w).opcode = 11#6 → decodeWord w = .ok (.sltiu (partition w).r1 (partition w).r2 (partition w).offset)) ∧
    ((partition w).opcode = 15#6 → decodeWord w = .ok (.lui (partition w).r1 (partition w).r2 (partition w).offset)) ∧
    ((partition w).opcode = 35#6 → decodeWord w = .ok (.lw (partition w).r1 (partition w).r2 (partition w).offset)) ∧
    ((partition w).opcode = 43#6 → decodeWord w = .ok (.sw (partition w).r1 (partition w).r2 (partition w).offset))) ∧
  (∀ (s : State) (w : Word), fetch s = .ok w → controlDecoder (partition w).opcode = none →
    step s = .fault .illegalOpcode)

/-- 30_encoding.md R72: under opcode 0 the function code selects the operation and the instruction, and any other
function code raises InvalidALUSrcCombination. -/
def Obligations.FunctMapIsTotal : Prop :=
  functOperation 32#6 = some .add ∧ functOperation 34#6 = some .sub ∧ functOperation 36#6 = some .and ∧
  functOperation 37#6 = some .or ∧ functOperation 42#6 = some .slt ∧ functOperation 43#6 = some .sltu ∧
  (∀ f : Funct, f ∉ ([32#6, 34#6, 36#6, 37#6, 42#6, 43#6] : List Funct) → functOperation f = none) ∧
  (∀ w : Word, (partition w).opcode = 0#6 →
    ((partition w).funct = 32#6 → decodeWord w = .ok (.add (partition w).r1 (partition w).r2 (partition w).r3)) ∧
    ((partition w).funct = 34#6 → decodeWord w = .ok (.sub (partition w).r1 (partition w).r2 (partition w).r3)) ∧
    ((partition w).funct = 36#6 → decodeWord w = .ok (.and (partition w).r1 (partition w).r2 (partition w).r3)) ∧
    ((partition w).funct = 37#6 → decodeWord w = .ok (.or (partition w).r1 (partition w).r2 (partition w).r3)) ∧
    ((partition w).funct = 42#6 → decodeWord w = .ok (.slt (partition w).r1 (partition w).r2 (partition w).r3)) ∧
    ((partition w).funct = 43#6 → decodeWord w = .ok (.sltu (partition w).r1 (partition w).r2 (partition w).r3))) ∧
  (∀ (s : State) (w : Word), fetch s = .ok w → (partition w).opcode = 0#6 →
    (partition w).funct ∉ ([32#6, 34#6, 36#6, 37#6, 42#6, 43#6] : List Funct) → step s = .fault .invalidALUSrcCombination)

/-- The ignored bits: register-type words that differ only in bits 10–6 decode alike, and lui does not depend on its r1
field (30_encoding.md section 5, which the spec marks as derived; log entry 19). -/
def Obligations.IgnoredBitsHaveNoEffect : Prop :=
  (∀ w w' : Word, (partition w).opcode = 0#6 → w &&& 0xFFFFF83F#32 = w' &&& 0xFFFFF83F#32 → decodeWord w' = decodeWord w) ∧
  ∀ (r1 r1' r2 : RegIdx) (offset : Offset) (s : State), exec (.lui r1 r2 offset) s = exec (.lui r1' r2 offset) s

/-! ### The datapath's components -/

/-- 30_encoding.md R64: bit 15 of the offset fills the upper half; the two examples of the rule. -/
def Obligations.SignExtenderCopiesBitFifteen : Prop :=
  (∀ offset : Offset,
    signExtend32 offset = (if offset.getLsbD 15 then 0xFFFF#16 else 0x0000#16) ++ offset ∧
    (signExtend32 offset).toInt = offset.toInt) ∧
  signExtend32 0x0001#16 = 0x00000001#32 ∧ signExtend32 0xFFFF#16 = 0xFFFFFFFF#32

/-- The decode table, cell by cell. The spec reconstructs it and chooses some cells itself (30_encoding.md section 3;
92_eei_decisions.md D4, D5; 90_conflicts.md C2; log entries 9, 10, 14). -/
def Obligations.DecodeTableCells : Prop :=
  controlDecoder 0#6 = some ⟨.r3, .reg, .rtype, .alu, true, false, false, false, false⟩ ∧
  controlDecoder 2#6 = some ⟨.na, .imm, .add, .alu, false, false, false, false, true⟩ ∧
  controlDecoder 4#6 = some ⟨.na, .reg, .sub, .alu, false, false, false, true, false⟩ ∧
  controlDecoder 8#6 = some ⟨.r2, .imm, .add, .alu, true, false, false, false, false⟩ ∧
  controlDecoder 10#6 = some ⟨.r2, .imm, .slt, .alu, true, false, false, false, false⟩ ∧
  controlDecoder 11#6 = some ⟨.r2, .imm, .sltu, .alu, true, false, false, false, false⟩ ∧
  controlDecoder 15#6 = some ⟨.r2, .imm, .sll16, .alu, true, false, false, false, false⟩ ∧
  controlDecoder 35#6 = some ⟨.r2, .imm, .add, .mem, true, true, false, false, false⟩ ∧
  controlDecoder 43#6 = some ⟨.na, .imm, .add, .alu, false, false, true, false, false⟩

/-- The decoder invariants, for every opcode with a control vector (30_encoding.md section 3, partly marked as
derived). -/
def Obligations.DecoderKeepsInvariants : Prop :=
  ∀ (op : Opcode) (c : ControlVector), controlDecoder op = some c →
    ¬ (c.regDst = .na ∧ c.regWrite = true) ∧ ¬ (c.memRead = true ∧ c.memWrite = true) ∧
    ¬ (c.jump = true ∧ c.branch = true) ∧ ¬ (c.regWrite = true ∧ c.memWrite = true) ∧
    (c.memtoReg = .mem → c.memRead = true)

/-- 40_datapath.md R112: with ALUSrc = Imm the operation is ALUOp itself for its four values, and no operation (the step
raises InvalidALUSrcCombination) for the four others. -/
def Obligations.ImmediateSelection : Prop :=
  ∀ f : Funct,
    selectOperation .imm .add f = some .add ∧ selectOperation .imm .slt f = some .slt ∧
    selectOperation .imm .sltu f = some .sltu ∧ selectOperation .imm .sll16 f = some .sll16 ∧
    selectOperation .imm .sub f = none ∧ selectOperation .imm .and f = none ∧
    selectOperation .imm .or f = none ∧ selectOperation .imm .rtype f = none

/-- With ALUSrc = Reg the branch context is tested before the function code, the spec's decision D5 (40_datapath.md
section 4; log entry 10), so a decoded opcode reaches no operation only under opcode 0 with an unlisted function code
(the spec's derived reachability). -/
def Obligations.RegisterSelection : Prop :=
  (∀ f : Funct, selectOperation .reg .sub f = some .sub) ∧
  (∀ (k : ALUOpKind) (f : Funct), k ≠ .sub → selectOperation .reg k f = functOperation f) ∧
  ∀ (op : Opcode) (c : ControlVector) (f : Funct), controlDecoder op = some c →
    (c.aluSrc, c.aluOp) ∈ [(ALUSrc.reg, ALUOpKind.rtype), (.reg, .sub), (.imm, .add), (.imm, .slt), (.imm, .sltu),
      (.imm, .sll16)] ∧
    (selectOperation c.aluSrc c.aluOp f = none ↔ op = 0#6 ∧ f ∉ ([32#6, 34#6, 36#6, 37#6, 42#6, 43#6] : List Funct))

/-- 40_datapath.md R115 and R116: each ALU operation against arithmetic on the signed and unsigned readings, under both
values of SLT_INVERTED, and the Zero flag. -/
def Obligations.AluMatchesArithmetic : Prop :=
  ∀ (p : Params) (a b : Word),
    (aluResult p .add a b).toNat = (a.toNat + b.toNat) % 2 ^ 32 ∧
    ((aluResult p .sub a b).toNat : Int) = ((a.toNat : Int) - b.toNat) % 2 ^ 32 ∧
    (∀ k, (aluResult p .and a b).getLsbD k = (a.getLsbD k && b.getLsbD k)) ∧
    (∀ k, (aluResult p .or a b).getLsbD k = (a.getLsbD k || b.getLsbD k)) ∧
    (LessSigned p a b → aluResult p .slt a b = 1#32) ∧ (¬ LessSigned p a b → aluResult p .slt a b = 0#32) ∧
    (LessUnsigned p a b → aluResult p .sltu a b = 1#32) ∧ (¬ LessUnsigned p a b → aluResult p .sltu a b = 0#32) ∧
    (aluResult p .sll16 a b).toNat = b.toNat * 2 ^ 16 % 2 ^ 32 ∧
    ∀ op, (zeroFlag (aluResult p op a b) = true ↔ (aluResult p op a b).toNat = 0)

/-- The two values of SLT_INVERTED give different comparisons exactly when one operand has bit 31 set and the other does
not (92_eei_decisions.md D2, "errs if wrong"; log entry 5). -/
def Obligations.SltInversionMatters : Prop :=
  ∀ (r0 : Bool) (f : StoreDataField) (a b : Word),
    (ltSigned ⟨r0, true, f⟩ a b ≠ ltSigned ⟨r0, false, f⟩ a b ↔ a.getLsbD 31 ≠ b.getLsbD 31) ∧
    ltSigned ⟨r0, true, f⟩ a b = ltUnsigned ⟨r0, false, f⟩ a b ∧
    ltUnsigned ⟨r0, true, f⟩ a b = ltSigned ⟨r0, false, f⟩ a b

/-- The MemoryUnit does each thing only when it is asked to (20_memory.md section 3). It checks nothing unless MemRead or
MemWrite is asserted, and then faults exactly on an address outside memory or misaligned, the bounds first (decision D7,
log entry 12); without MemWrite it writes nothing, whatever MemRead is, and with it the word at the address becomes the
data (in canonical memory, log entry 3); without MemRead its readData does not depend on memory, whatever MemWrite is
(log entry 16), and with it readData is the word at the address unmodified; and a decoded opcode selects readData only
where MemRead is asserted (30_encoding.md section 3, derived; decision D4, log entry 9). -/
def Obligations.MemoryUnitActsWhenAsked : Prop :=
  (∀ (c : ControlVector) (addr : Word), c.memRead = false → c.memWrite = false → memoryUnitFault c addr = none) ∧
  (∀ (c : ControlVector) (addr : Word), c.memRead = true ∨ c.memWrite = true →
    (Accessible addr → memoryUnitFault c addr = none) ∧
    (65536 ≤ addr.toNat → memoryUnitFault c addr = some .outOfBoundsMemoryAccess) ∧
    (addr.toNat < 65536 → addr.toNat % 4 ≠ 0 → memoryUnitFault c addr = some .misalignedMemoryAccess)) ∧
  (∀ (c : ControlVector) (s : State) (addr data : Word), c.memWrite = false → memoryUnitWrite c s addr data = s) ∧
  (∀ (c : ControlVector) (s : State) (addr data : Word), c.memWrite = true → Memory.wf s.mem = true → Accessible addr →
    Memory.readWord (memoryUnitWrite c s addr data).mem addr.toNat = data) ∧
  (∀ (c : ControlVector) (m m' : Memory) (addr : Word), c.memRead = false →
    memoryUnitRead c m addr = memoryUnitRead c m' addr) ∧
  (∀ (c : ControlVector) (m : Memory) (addr : Word), c.memRead = true →
    memoryUnitRead c m addr = Memory.readWord m addr.toNat) ∧
  ∀ (op : Opcode) (c : ControlVector), controlDecoder op = some c → c.memtoReg = .mem → c.memRead = true

/-- 40_datapath.md R126 and R127: the writeback multiplexers and the register write, nothing without RegWrite. -/
def Obligations.WritebackSelects : Prop :=
  ∀ (c : ControlVector) (s : State) (r2 r3 : RegIdx) (readData result : Word),
    (c.memtoReg = .mem → writebackData c readData result = readData) ∧
    (c.memtoReg = .alu → writebackData c readData result = result) ∧
    (c.regWrite = false → registerWriteback c s r2 r3 (writebackData c readData result) = s) ∧
    (c.regWrite = true → c.regDst = .r2 →
      WritesReg r2 (writebackData c readData result) s (registerWriteback c s r2 r3 (writebackData c readData result))) ∧
    (c.regWrite = true → c.regDst = .r3 →
      WritesReg r3 (writebackData c readData result) s (registerWriteback c s r2 r3 (writebackData c readData result)))

/-- The step by decoded instructions and the step through the ten components of the datapath are the same function of the
state, faults included (40_datapath.md section 1 against 41_register_type.md to 44_control_transfer.md; the decode
table's chosen cells are log entries 9 and 10). -/
def Obligations.StepIsDatapathStep : Prop :=
  ∀ s : State, step s = datapathStep s

/-! ### Registers, memory, reset, and the step -/

/-- Register 0 under both values of R0_HARDWIRED (10_state.md section 2; the default is decision D1, log entry 5). -/
def Obligations.RegisterZeroFollowsParameter : Prop :=
  ∀ (s : State) (v : Word),
    (s.params.r0Hardwired = false → s.readReg 0#5 = s.slot 0#5 ∧ (s.writeReg 0#5 v).readReg 0#5 = v) ∧
    (s.params.r0Hardwired = true → s.readReg 0#5 = 0#32 ∧ s.writeReg 0#5 v = s)

/-- In canonical memory a word written at an aligned address inside memory reads back, every other aligned word reads as
before (20_memory.md sections 1 and 7). That the memory stays canonical is no word of the spec: the canonical form is the
model's own form of memory (DESIGN CHOICE, log entry 3). -/
def Obligations.MemoryReadAfterWrite : Prop :=
  ∀ (m : Memory) (a : Nat) (v : Word), Memory.wf m = true → a < 65536 → a % 4 = 0 →
    Memory.readWord (Memory.writeWord m a v) a = v ∧
    (∀ b, b % 4 = 0 → b ≠ a → Memory.readWord (Memory.writeWord m a v) b = Memory.readWord m b) ∧
    Memory.wf (Memory.writeWord m a v) = true

/-- Two canonical memories that read alike at every address are the same data (the model's form of memory, log
entry 3). -/
def Obligations.MemoryIsExtensional : Prop :=
  ∀ m m' : Memory, Memory.wf m = true → Memory.wf m' = true →
    (∀ a, Memory.readByte m a = Memory.readByte m' a) → m = m'

/-- The state after reset, every value of it the MODEL'S CHOICE: the spec leaves the launch values open (10_state.md
section 8; log entries 1, 2, 3) and takes defaults for the parameters (log entry 5). -/
def Obligations.ResetLeavesChosenValues : Prop :=
  (∀ i, State.reset.slot i = 0#32) ∧ State.reset.pc = 0#32 ∧ (∀ a, State.reset.readByte a = 0#8) ∧
  State.reset.params.r0Hardwired = false ∧ State.reset.params.sltInverted = false ∧
  State.reset.params.storeDataField = .r2

/-- The invariant holds at reset; the reset values are the model's choice (log entries 1, 2, 3). -/
def Obligations.ResetMeetsInv : Prop := Inv State.reset

/-- Every completed step keeps the invariant: pc a multiple of 4 (40_datapath.md section 7, which the spec marks as
derived), and memory in canonical form, which is the model's own form of memory and no word of the spec (DESIGN CHOICE,
log entry 3). -/
def Obligations.StepKeepsInv : Prop :=
  ∀ s t : State, Inv s → step s = .next t → Inv t

/-- Every next pc is a multiple of 4, from any state whatever (40_datapath.md section 7, which the spec marks as
derived). -/
def Obligations.NextPcIsAligned : Prop :=
  ∀ s t : State, step s = .next t → t.pc.toNat % 4 = 0

/-- No step changes the parameters (70_reset_and_hazards.md section 1: "fixed for the whole run"; log entry 5). -/
def Obligations.StepKeepsParams : Prop :=
  ∀ s t : State, step s = .next t → t.params = s.params

/-- When the word at a fetchable pc decodes to an instruction, the step is that instruction's meaning at the same state,
with nothing added around it (40_datapath.md section 1). -/
def Obligations.StepRunsDecodedInstruction : Prop :=
  ∀ (s : State) (i : Instr), Fetchable s.pc → decodeWord (Memory.readWord s.mem s.pc.toNat) = .ok i → step s = exec i s

/-- An instruction placed by withFetchWord is the one the very next step runs (the model's placing, log entry 7,
in canonical memory, log entry 3). -/
def Obligations.PlacedWordRuns : Prop :=
  ∀ (s : State) (w : Nat) (i : Instr), Memory.wf s.mem = true → decodeTableWord 32 w = some i →
    step (s.withFetchWord 32 w) = exec i (s.withFetchWord 32 w)

/-! ### What each instruction does -/

/-- 41_register_type.md R141: add. -/
def Obligations.AddWritesSum : Prop :=
  (∀ w : Word, w &&& 0xFC00003F#32 = 0x00000020#32 →
    decodeWord w = .ok (.add (partition w).r1 (partition w).r2 (partition w).r3)) ∧
  ∀ (r1 r2 r3 : RegIdx) (s : State), ∃ t, exec (.add r1 r2 r3) s = .next t ∧
    RegisterBecomes r3 (s.readReg r1 + s.readReg r2) s t ∧ t.pc = s.pc + 4#32

/-- sub: x[r1] - x[r2], the operand order being the spec's decision D6 (41_register_type.md; log entry 11). -/
def Obligations.SubWritesDifference : Prop :=
  (∀ w : Word, w &&& 0xFC00003F#32 = 0x00000022#32 →
    decodeWord w = .ok (.sub (partition w).r1 (partition w).r2 (partition w).r3)) ∧
  ∀ (r1 r2 r3 : RegIdx) (s : State), ∃ t, exec (.sub r1 r2 r3) s = .next t ∧
    RegisterBecomes r3 (s.readReg r1 - s.readReg r2) s t ∧ t.pc = s.pc + 4#32

/-- 41_register_type.md R143: and. -/
def Obligations.AndWritesConjunction : Prop :=
  (∀ w : Word, w &&& 0xFC00003F#32 = 0x00000024#32 →
    decodeWord w = .ok (.and (partition w).r1 (partition w).r2 (partition w).r3)) ∧
  ∀ (r1 r2 r3 : RegIdx) (s : State), ∃ t, exec (.and r1 r2 r3) s = .next t ∧
    RegisterBecomes r3 (s.readReg r1 &&& s.readReg r2) s t ∧ t.pc = s.pc + 4#32

/-- 41_register_type.md R144: or. -/
def Obligations.OrWritesDisjunction : Prop :=
  (∀ w : Word, w &&& 0xFC00003F#32 = 0x00000025#32 →
    decodeWord w = .ok (.or (partition w).r1 (partition w).r2 (partition w).r3)) ∧
  ∀ (r1 r2 r3 : RegIdx) (s : State), ∃ t, exec (.or r1 r2 r3) s = .next t ∧
    RegisterBecomes r3 (s.readReg r1 ||| s.readReg r2) s t ∧ t.pc = s.pc + 4#32

/-- slt, under both values of SLT_INVERTED; the operand order is the spec's decision D6 (41_register_type.md;
log entries 5, 11). -/
def Obligations.SltWritesComparison : Prop :=
  (∀ w : Word, w &&& 0xFC00003F#32 = 0x0000002A#32 →
    decodeWord w = .ok (.slt (partition w).r1 (partition w).r2 (partition w).r3)) ∧
  ∀ (r1 r2 r3 : RegIdx) (s : State), ∃ t, exec (.slt r1 r2 r3) s = .next t ∧
    (LessSigned s.params (s.readReg r1) (s.readReg r2) → RegisterBecomes r3 1#32 s t) ∧
    (¬ LessSigned s.params (s.readReg r1) (s.readReg r2) → RegisterBecomes r3 0#32 s t) ∧ t.pc = s.pc + 4#32

/-- sltu, under both values of SLT_INVERTED; the operand order is the spec's decision D6 (41_register_type.md;
log entries 5, 11). -/
def Obligations.SltuWritesComparison : Prop :=
  (∀ w : Word, w &&& 0xFC00003F#32 = 0x0000002B#32 →
    decodeWord w = .ok (.sltu (partition w).r1 (partition w).r2 (partition w).r3)) ∧
  ∀ (r1 r2 r3 : RegIdx) (s : State), ∃ t, exec (.sltu r1 r2 r3) s = .next t ∧
    (LessUnsigned s.params (s.readReg r1) (s.readReg r2) → RegisterBecomes r3 1#32 s t) ∧
    (¬ LessUnsigned s.params (s.readReg r1) (s.readReg r2) → RegisterBecomes r3 0#32 s t) ∧ t.pc = s.pc + 4#32

/-- 42_immediate.md R161: addi. -/
def Obligations.AddiWritesSum : Prop :=
  (∀ w : Word, w &&& 0xFC000000#32 = 0x20000000#32 →
    decodeWord w = .ok (.addi (partition w).r1 (partition w).r2 (partition w).offset)) ∧
  ∀ (r1 r2 : RegIdx) (offset : Offset) (s : State), ∃ t, exec (.addi r1 r2 offset) s = .next t ∧
    RegisterBecomes r2 (s.readReg r1 + offset.signExtend 32) s t ∧ t.pc = s.pc + 4#32

/-- slti, under both values of SLT_INVERTED (42_immediate.md; 92_eei_decisions.md D2, D6; log entries 5, 11). -/
def Obligations.SltiWritesComparison : Prop :=
  (∀ w : Word, w &&& 0xFC000000#32 = 0x28000000#32 →
    decodeWord w = .ok (.slti (partition w).r1 (partition w).r2 (partition w).offset)) ∧
  ∀ (r1 r2 : RegIdx) (offset : Offset) (s : State), ∃ t, exec (.slti r1 r2 offset) s = .next t ∧
    (LessSigned s.params (s.readReg r1) (offset.signExtend 32) → RegisterBecomes r2 1#32 s t) ∧
    (¬ LessSigned s.params (s.readReg r1) (offset.signExtend 32) → RegisterBecomes r2 0#32 s t) ∧ t.pc = s.pc + 4#32

/-- sltiu, under both values of SLT_INVERTED: the immediate is sign-extended and a zero result never redirects pc
(42_immediate.md; 92_eei_decisions.md D2, D6; 90_conflicts.md C2; log entries 5, 11, 14). -/
def Obligations.SltiuWritesComparison : Prop :=
  (∀ w : Word, w &&& 0xFC000000#32 = 0x2C000000#32 →
    decodeWord w = .ok (.sltiu (partition w).r1 (partition w).r2 (partition w).offset)) ∧
  ∀ (r1 r2 : RegIdx) (offset : Offset) (s : State), ∃ t, exec (.sltiu r1 r2 offset) s = .next t ∧
    (LessUnsigned s.params (s.readReg r1) (offset.signExtend 32) → RegisterBecomes r2 1#32 s t) ∧
    (¬ LessUnsigned s.params (s.readReg r1) (offset.signExtend 32) → RegisterBecomes r2 0#32 s t) ∧ t.pc = s.pc + 4#32

/-- 42_immediate.md R164: lui. -/
def Obligations.LuiWritesUpperHalf : Prop :=
  (∀ w : Word, w &&& 0xFC000000#32 = 0x3C000000#32 →
    decodeWord w = .ok (.lui (partition w).r1 (partition w).r2 (partition w).offset)) ∧
  ∀ (r1 r2 : RegIdx) (offset : Offset) (s : State), ∃ t, exec (.lui r1 r2 offset) s = .next t ∧
    RegisterBecomes r2 (offset ++ 0x0000#16) s t ∧
    offset ++ 0x0000#16 = offset.signExtend 32 <<< 16 ∧ t.pc = s.pc + 4#32

/-- lw completes on every accessible address, with the word at base plus offset (43_load_store.md; the address check's
order is decision D7, log entry 12). -/
def Obligations.LwLoadsWord : Prop :=
  (∀ w : Word, w &&& 0xFC000000#32 = 0x8C000000#32 →
    decodeWord w = .ok (.lw (partition w).r1 (partition w).r2 (partition w).offset)) ∧
  ∀ (r1 r2 : RegIdx) (offset : Offset) (s : State), Accessible (s.readReg r1 + offset.signExtend 32) →
    ∃ t, exec (.lw r1 r2 offset) s = .next t ∧
      RegisterBecomes r2 (Memory.readWord s.mem (s.readReg r1 + offset.signExtend 32).toNat) s t ∧ t.pc = s.pc + 4#32

/-- sw completes on every accessible address of canonical memory and the word there becomes x[r2] or x[r1], by
STORE_DATA_FIELD (43_load_store.md; 92_eei_decisions.md D3, D7; log entries 3, 5, 12). -/
def Obligations.SwStoresWord : Prop :=
  (∀ w : Word, w &&& 0xFC000000#32 = 0xAC000000#32 →
    decodeWord w = .ok (.sw (partition w).r1 (partition w).r2 (partition w).offset)) ∧
  ∀ (r1 r2 : RegIdx) (offset : Offset) (s : State), Memory.wf s.mem = true →
    Accessible (s.readReg r1 + offset.signExtend 32) →
    ∃ t, exec (.sw r1 r2 offset) s = .next t ∧
      Memory.readWord t.mem (s.readReg r1 + offset.signExtend 32).toNat =
        (if s.params.storeDataField = .r1 then s.readReg r1 else s.readReg r2) ∧ t.pc = s.pc + 4#32

/-- beq: the branch is taken exactly when x[r1] = x[r2], and no offset makes it fault (44_control_transfer.md; decisions
D5 and D10, log entries 10, 13). -/
def Obligations.BeqBranchesOnEqual : Prop :=
  (∀ w : Word, w &&& 0xFC000000#32 = 0x10000000#32 →
    decodeWord w = .ok (.beq (partition w).r1 (partition w).r2 (partition w).offset)) ∧
  ∀ (r1 r2 : RegIdx) (offset : Offset) (s : State), ∃ t, exec (.beq r1 r2 offset) s = .next t ∧
    t.pc = if s.readReg r1 = s.readReg r2 then s.pc + 4#32 + (offset.signExtend 32 <<< 2) else s.pc + 4#32

/-- j: the next pc is the target placed under the top four bits of the jump's own pc (44_control_transfer.md section of
j). That j always completes rests on its ALUSrc and ALUOp cells, the spec's decision D4 (log entry 9). -/
def Obligations.JumpSetsTarget : Prop :=
  (∀ w : Word, w &&& 0xFC000000#32 = 0x08000000#32 → decodeWord w = .ok (.j (partition w).target)) ∧
  ∀ (target : Target) (s : State), ∃ t, exec (.j target) s = .next t ∧
    t.pc = (s.pc &&& 0xF0000000#32) ||| (target.zeroExtend 32 <<< 2)

/-! ### Frames -/

/-- What the register-type instructions leave unchanged: every register but r3 (and r3 itself where its write is
discarded), all of memory, and the parameters (41_register_type.md section opening; 10_state.md section 2). -/
def Obligations.RegisterTypeFrame : Prop :=
  ∀ (i : Instr) (r1 r2 r3 : RegIdx) (s t : State),
    i ∈ [Instr.add r1 r2 r3, .sub r1 r2 r3, .and r1 r2 r3, .or r1 r2 r3, .slt r1 r2 r3, .sltu r1 r2 r3] →
    exec i s = .next t →
    SameRegsExcept r3 s t ∧ (Discarded s r3 → SameRegs s t) ∧ SameMemory s t ∧ t.params = s.params

/-- What the immediate instructions leave unchanged: every register but r2 (and r2 itself where its write is discarded),
all of memory, and the parameters (42_immediate.md section opening; 10_state.md section 2). -/
def Obligations.ImmediateFrame : Prop :=
  ∀ (i : Instr) (r1 r2 : RegIdx) (offset : Offset) (s t : State),
    i ∈ [Instr.addi r1 r2 offset, .slti r1 r2 offset, .sltiu r1 r2 offset, .lui r1 r2 offset] →
    exec i s = .next t →
    SameRegsExcept r2 s t ∧ (Discarded s r2 → SameRegs s t) ∧ SameMemory s t ∧ t.params = s.params

/-- What lw leaves unchanged: every register but r2, the base among them unless r2 = r1, all of memory, and the
parameters (43_load_store.md section opening; 10_state.md section 2). -/
def Obligations.LoadFrame : Prop :=
  ∀ (r1 r2 : RegIdx) (offset : Offset) (s t : State), exec (.lw r1 r2 offset) s = .next t →
    SameRegsExcept r2 s t ∧ (Discarded s r2 → SameRegs s t) ∧ SameMemory s t ∧ t.params = s.params

/-- What sw leaves unchanged: every register, the parameters, and every byte of canonical memory outside the four bytes
from the effective address (43_load_store.md section opening; the canonical form is log entry 3). -/
def Obligations.StoreFrame : Prop :=
  ∀ (r1 r2 : RegIdx) (offset : Offset) (s t : State), Memory.wf s.mem = true → exec (.sw r1 r2 offset) s = .next t →
    SameRegs s t ∧ t.params = s.params ∧ SameMemoryOutside (effectiveAddress s r1 offset).toNat s t

/-- What beq and j leave unchanged: everything but pc (44_control_transfer.md section opening). -/
def Obligations.ControlTransferFrame : Prop :=
  ∀ (i : Instr) (r1 r2 : RegIdx) (offset : Offset) (target : Target) (s t : State),
    i ∈ [Instr.beq r1 r2 offset, .j target] → exec i s = .next t →
    SameRegs s t ∧ SameMemory s t ∧ t.params = s.params

/-! ### Faults -/

/-- When the step raises each fetch fault, exactly: the bounds come first (40_datapath.md section 2; decision D7,
log entry 12). -/
def Obligations.FetchFaultsExactly : Prop :=
  ∀ s : State,
    (step s = .fault .outOfBoundsFetch ↔ 65536 ≤ s.pc.toNat) ∧
    (step s = .fault .misalignedFetch ↔ s.pc.toNat < 65536 ∧ s.pc.toNat % 4 ≠ 0)

/-- Where lw and sw fault, for every operand: the bounds come first (20_memory.md section 3; decision D7,
log entry 12). -/
def Obligations.DataFaultsWhereChecked : Prop :=
  ∀ (r1 r2 : RegIdx) (offset : Offset) (s : State),
    (65536 ≤ (s.readReg r1 + offset.signExtend 32).toNat →
      exec (.lw r1 r2 offset) s = .fault .outOfBoundsMemoryAccess ∧
      exec (.sw r1 r2 offset) s = .fault .outOfBoundsMemoryAccess) ∧
    ((s.readReg r1 + offset.signExtend 32).toNat < 65536 → (s.readReg r1 + offset.signExtend 32).toNat % 4 ≠ 0 →
      exec (.lw r1 r2 offset) s = .fault .misalignedMemoryAccess ∧
      exec (.sw r1 r2 offset) s = .fault .misalignedMemoryAccess)

/-- No instruction but lw and sw faults once decoded, and they raise only the two data faults (60_exceptions.md section 1).
That beq never faults is the spec's decision D5 (log entry 10), that j never faults its decision D4 (log entry 9). -/
def Obligations.OnlyLoadsAndStoresFault : Prop :=
  ∀ (i : Instr) (s : State) (f : Fault), exec i s = .fault f →
    (∃ r1 r2 offset, i = .lw r1 r2 offset ∨ i = .sw r1 r2 offset) ∧
    (f = .misalignedMemoryAccess ∨ f = .outOfBoundsMemoryAccess)

/-- A faulting step commits nothing and faults are precise: a run ends in fault f with state t exactly when some shorter
run commits its steps and reaches t, the stop condition does not hold there, and the step from t raises f
(60_exceptions.md sections 1 and 3). That the driver keeps the state it had is log entry 6, that a run stops at its first
fault and that the driver edits nothing is the spec's decision D12 (log entry 8). -/
def Obligations.FaultCommitsNothing : Prop :=
  ∀ (stop : State → Bool) (n : Nat) (s t : State) (f : Fault),
    run stop n s = .faulted f t ↔ ∃ k, k < n ∧ run stop k s = .running t ∧ stop t = false ∧ step t = .fault f

/-- Each of the six faults is raised by some step, with its numeric code; the codes are the spec's decision D8
(60_exceptions.md section 1; log entry 15). -/
def Obligations.EveryFaultArises : Prop :=
  (∀ f : Fault, ∃ s : State, step s = .fault f ∧ resultCode (step s) = some f.code) ∧
  Fault.code .misalignedFetch = 1 ∧ Fault.code .outOfBoundsFetch = 2 ∧ Fault.code .illegalOpcode = 3 ∧
  Fault.code .invalidALUSrcCombination = 4 ∧ Fault.code .misalignedMemoryAccess = 5 ∧
  Fault.code .outOfBoundsMemoryAccess = 6

/-- No step is refused: every state has a next state or one of the six faults (00_scope.md section 1; 60_exceptions.md
section 1). -/
def Obligations.NoStepIsRefused : Prop :=
  ∀ (s : State) (r : Refusal), step s ≠ .refused r

/-- Exactly when a step completes: the pc is fetchable, the word there spells an instruction, and the address is
accessible if it is lw or sw (40_datapath.md section 1; 60_exceptions.md sections 1 and 2). That a decoded beq completes
whatever its offset is the spec's decision D5 (log entry 10), that a decoded j completes its decision D4 (log entry 9). -/
def Obligations.StepCompletesExactly : Prop :=
  ∀ s : State, Completes s ↔
    Fetchable s.pc ∧ ∃ i, decodeWord (Memory.readWord s.mem s.pc.toNat) = .ok i ∧
      ∀ r1 r2 offset, (i = .lw r1 r2 offset ∨ i = .sw r1 r2 offset) → Accessible (effectiveAddress s r1 offset)

/-! ### The whole machine -/

/-- Only sw changes memory, and it changes no register: in a completed step from canonical memory either memory reads as
before, or the fetched instruction is a sw, the registers are unchanged, and so is every byte outside the four bytes from
its effective address (40_datapath.md section 1; 10_state.md section 2, which the spec marks as derived; the canonical
form is log entry 3). -/
def Obligations.OnlyStoreWordChangesMemory : Prop :=
  ∀ s t : State, Memory.wf s.mem = true → step s = .next t →
    SameMemory s t ∨
    ∃ r1 r2 offset, decodeWord (Memory.readWord s.mem s.pc.toNat) = .ok (.sw r1 r2 offset) ∧ SameRegs s t ∧
      SameMemoryOutside (effectiveAddress s r1 offset).toNat s t

/-- A word stored is the word fetched: after a completed sw, any state with that memory whose pc is the store's address
fetches the stored word (20_memory.md section 8, which the spec marks as derived; log entries 3 and 20). -/
def Obligations.StoreIsSeenByFetch : Prop :=
  ∀ (r1 r2 : RegIdx) (offset : Offset) (s t u : State), Memory.wf s.mem = true →
    exec (.sw r1 r2 offset) s = .next t → u.mem = t.mem → u.pc = effectiveAddress s r1 offset →
    fetch u = .ok (storeData s r1 r2)

/-- A store followed by a load through the same base and offset returns the stored value, from canonical memory, log
entry 3 (43_load_store.md, the round-trip property; 95_test_vectors.md W10). -/
def Obligations.StoreThenLoadReturnsValue : Prop :=
  ∀ (r1 r2 d : RegIdx) (offset : Offset) (s t : State), Memory.wf s.mem = true →
    exec (.sw r1 r2 offset) s = .next t →
    ∃ u, exec (.lw r1 d offset) t = .next u ∧ RegisterBecomes d (storeData s r1 r2) t u ∧ u.pc = s.pc + 8#32

/-- `addi $k, $k, 0` changes nothing but pc, for every k and either value of R0_HARDWIRED (30_encoding.md section 6,
which the spec marks as derived). -/
def Obligations.AddiZeroOnlyAdvances : Prop :=
  ∀ (k : RegIdx) (s : State), exec (.addi k k 0#16) s = .next { s with pc := s.pc + 4#32 }

/-- The one-instruction loops: beq on equal registers with offset -1 and j to its own address leave the state as it is
(70_reset_and_hazards.md section 2, decision D12; 44_control_transfer.md). That this beq, whose offset bits 5–0 are 63,
completes is the spec's decision D5 (log entry 10), that j completes its decision D4 (log entry 9). -/
def Obligations.SelfLoopsKeepState : Prop :=
  (∀ (r1 r2 : RegIdx) (s : State), s.readReg r1 = s.readReg r2 → exec (.beq r1 r2 0xFFFF#16) s = .next s) ∧
  ∀ (target : Target) (s : State), s.pc.toNat = 4 * target.toNat → exec (.j target) s = .next s

/-- A faulted run is stuck: the state it holds faults the same way on every later step (60_exceptions.md section 3, which
the spec marks as derived; decision D12, log entry 8). -/
def Obligations.FaultedRunIsStuck : Prop :=
  ∀ (stop : State → Bool) (n : Nat) (s t : State) (f : Fault), run stop n s = .faulted f t →
    step t = .fault f ∧ stop t = false ∧ ∀ k, run stop (n + k) s = .faulted f t
end

