-- ==== Sys2Proof/Laws/Checks.lean ====
section
/-! SUPPORT. The two address checks and the fetch, in the terms of Safety (40_datapath.md R103; 20_memory.md R43). -/

namespace Sys2Proof.Machine

theorem checkFetch_none_iff (pc : Word) : checkFetch pc = none ↔ Fetchable pc := by
  unfold checkFetch Fetchable Config.memBytes
  split_ifs <;> simp <;> omega

theorem checkData_none_iff (addr : Word) : checkData addr = none ↔ Accessible addr := by
  unfold checkData Accessible Config.memBytes
  split_ifs <;> simp <;> omega

/-- The only faults of the data check, and when each is raised. -/
theorem checkData_some_iff (addr : Word) (f : Fault) : checkData addr = some f ↔
    (65536 ≤ addr.toNat ∧ f = .outOfBoundsMemoryAccess) ∨
    (addr.toNat < 65536 ∧ addr.toNat % 4 ≠ 0 ∧ f = .misalignedMemoryAccess) := by
  unfold checkData Config.memBytes
  split_ifs with h1 h2
  · simp [h1, Nat.not_lt.mpr h1, eq_comm]
  · simp [h1, h2, Nat.lt_of_not_le h1, eq_comm]
  · simp [h1, h2]

/-- The only faults of the fetch check, and when each is raised. -/
theorem checkFetch_some_iff (pc : Word) (f : Fault) : checkFetch pc = some f ↔
    (65536 ≤ pc.toNat ∧ f = .outOfBoundsFetch) ∨
    (pc.toNat < 65536 ∧ pc.toNat % 4 ≠ 0 ∧ f = .misalignedFetch) := by
  unfold checkFetch Config.memBytes
  split_ifs with h1 h2
  · simp [h1, Nat.not_lt.mpr h1, eq_comm]
  · simp [h1, h2, Nat.lt_of_not_le h1, eq_comm]
  · simp [h1, h2]

/-- A fetch that succeeds had a fetchable pc and read the word at it. -/
theorem fetch_ok_iff (s : State) (w : Word) :
    fetch s = .ok w ↔ Fetchable s.pc ∧ w = Memory.readWord s.mem s.pc.toNat := by
  rw [← checkFetch_none_iff]
  unfold fetch
  cases checkFetch s.pc <;> simp [eq_comm]

/-- A fetch that fails gives the fault of the fetch check. -/
theorem fetch_error_iff (s : State) (f : Fault) : fetch s = .error f ↔ checkFetch s.pc = some f := by
  unfold fetch
  cases checkFetch s.pc <;> simp

end Sys2Proof.Machine
end

