-- ==== Sys2Proof/Laws/Decode.lean ====
section
/-! SUPPORT. What decoding can answer: the opcode of what it decodes, and when it rejects a word (30_encoding.md R71–R73). -/

namespace Sys2Proof

/-- What a partitioned word decodes to has the word's opcode. -/
theorem decodeFields_opcode {f : Fields} {i : Instr} (h : decodeFields f = .ok i) : i.opcode = f.opcode := by
  unfold decodeFields decodeRType at h
  split_ifs at h <;> simp_all <;> subst h <;> rfl

/-- A word is rejected for its opcode exactly when the opcode has no control vector. -/
theorem decodeFields_illegalOpcode_iff (f : Fields) :
    decodeFields f = .error .illegalOpcode ↔ controlDecoder f.opcode = none := by
  unfold decodeFields decodeRType controlDecoder
  split_ifs <;> simp

/-- A word is rejected for its function code exactly under opcode 0 with a function code outside the table. -/
theorem decodeFields_invalid_iff (f : Fields) : decodeFields f = .error .invalidALUSrcCombination ↔
    f.opcode = 0#6 ∧ f.funct ∉ ([32#6, 34#6, 36#6, 37#6, 42#6, 43#6] : List Funct) := by
  unfold decodeFields decodeRType
  split_ifs <;> simp_all

end Sys2Proof
end

