-- ==== Sys2Proof/Laws/State.lean ====
section
/-! SUPPORT. What each update of the state does to each field, and what the register accessors read after it. -/

namespace Sys2Proof.Machine

@[simp] theorem setPc_regs (s : State) (p : Word) : (s.setPc p).regs = s.regs := rfl
@[simp] theorem setPc_mem (s : State) (p : Word) : (s.setPc p).mem = s.mem := rfl
@[simp] theorem setPc_pc (s : State) (p : Word) : (s.setPc p).pc = p := rfl
@[simp] theorem setPc_params (s : State) (p : Word) : (s.setPc p).params = s.params := rfl

@[simp] theorem advance_regs (s : State) : s.advance.regs = s.regs := rfl
@[simp] theorem advance_mem (s : State) : s.advance.mem = s.mem := rfl
@[simp] theorem advance_pc (s : State) : s.advance.pc = s.pc + 4#32 := rfl
@[simp] theorem advance_params (s : State) : s.advance.params = s.params := rfl

@[simp] theorem writeMem_regs (s : State) (a : Nat) (v : Word) : (s.writeMem a v).regs = s.regs := rfl
@[simp] theorem writeMem_mem (s : State) (a : Nat) (v : Word) :
    (s.writeMem a v).mem = Memory.writeWord s.mem a v := rfl
@[simp] theorem writeMem_pc (s : State) (a : Nat) (v : Word) : (s.writeMem a v).pc = s.pc := rfl
@[simp] theorem writeMem_params (s : State) (a : Nat) (v : Word) : (s.writeMem a v).params = s.params := rfl

@[simp] theorem writeReg_mem (s : State) (i : RegIdx) (v : Word) : (s.writeReg i v).mem = s.mem := by
  unfold State.writeReg; split <;> rfl
@[simp] theorem writeReg_pc (s : State) (i : RegIdx) (v : Word) : (s.writeReg i v).pc = s.pc := by
  unfold State.writeReg; split <;> rfl
@[simp] theorem writeReg_params (s : State) (i : RegIdx) (v : Word) : (s.writeReg i v).params = s.params := by
  unfold State.writeReg; split <;> rfl

@[simp] theorem commitReg_mem (s : State) (d : RegIdx) (v : Word) : (s.commitReg d v).mem = s.mem := by
  simp [State.commitReg]
@[simp] theorem commitReg_pc (s : State) (d : RegIdx) (v : Word) : (s.commitReg d v).pc = s.pc + 4#32 := by
  simp [State.commitReg]
@[simp] theorem commitReg_params (s : State) (d : RegIdx) (v : Word) : (s.commitReg d v).params = s.params := by
  simp [State.commitReg]

@[simp] theorem setPc_slot (s : State) (p : Word) (i : RegIdx) : (s.setPc p).slot i = s.slot i := rfl
@[simp] theorem advance_slot (s : State) (i : RegIdx) : s.advance.slot i = s.slot i := rfl
@[simp] theorem writeMem_slot (s : State) (a : Nat) (v : Word) (i : RegIdx) : (s.writeMem a v).slot i = s.slot i := rfl

@[simp] theorem setPc_readReg (s : State) (p : Word) (i : RegIdx) : (s.setPc p).readReg i = s.readReg i := rfl
@[simp] theorem advance_readReg (s : State) (i : RegIdx) : s.advance.readReg i = s.readReg i := rfl
@[simp] theorem writeMem_readReg (s : State) (a : Nat) (v : Word) (i : RegIdx) :
    (s.writeMem a v).readReg i = s.readReg i := rfl

@[simp] theorem setPc_readByte (s : State) (p : Word) (a : Nat) : (s.setPc p).readByte a = s.readByte a := rfl
@[simp] theorem advance_readByte (s : State) (a : Nat) : s.advance.readByte a = s.readByte a := rfl
@[simp] theorem writeReg_readByte (s : State) (i : RegIdx) (v : Word) (a : Nat) :
    (s.writeReg i v).readByte a = s.readByte a := by simp [State.readByte]
@[simp] theorem commitReg_readByte (s : State) (d : RegIdx) (v : Word) (a : Nat) :
    (s.commitReg d v).readByte a = s.readByte a := by simp [State.readByte]

end Sys2Proof.Machine
end

