-- ==== Sys2Proof/Laws/Memory.lean ====
section
/-! SUPPORT. Memory: a read after a write, and that every write keeps the canonical form. -/

namespace Sys2Proof.Machine

/-! ### Bytes of a word -/

/-- Laying a word out as bytes and reading the bytes back gives the word. -/
theorem wordOfBytes_bytesOfWord (w : Word) :
    wordOfBytes (w.extractLsb' 24 8) (w.extractLsb' 16 8) (w.extractLsb' 8 8) (w.extractLsb' 0 8) = w := by
  unfold wordOfBytes
  apply BitVec.eq_of_getLsbD_eq
  intro i hi
  simp only [BitVec.getLsbD_append, BitVec.getLsbD_extractLsb']
  by_cases h1 : i < 8
  · simp [h1]
  · by_cases h2 : i - 8 < 8
    · simp [h1, h2, Nat.add_sub_cancel' (Nat.le_of_not_lt h1)]
    · by_cases h3 : i - 8 - 8 < 8
      · have e : 16 + (i - 8 - 8) = i := by omega
        simp [h1, h2, h3, e]
      · have e : 24 + (i - 8 - 8 - 8) = i := by omega
        have h4 : i - 8 - 8 - 8 < 8 := by omega
        simp [h1, h2, h3, h4, e]

/-! ### One byte -/

/-- Reading below the lowest address of a canonical memory finds no cell. -/
theorem readByte_below {m : Memory} : ∀ {lo k : Nat}, Memory.wfFrom lo m = true → k < lo →
    Memory.readByte m k = unlistedByte := by
  induction m with
  | nil => intros; rfl
  | cons c m ih =>
    obtain ⟨a, b⟩ := c
    intro lo k h hk
    simp only [Memory.wfFrom, Bool.and_eq_true, decide_eq_true_eq] at h
    have hne : a ≠ k := by omega
    simp only [Memory.readByte, if_neg hne]
    exact ih h.2 (by omega)

/-- Where the memory is canonical, a written byte reads back and every other byte reads as before. -/
theorem readByte_writeByte {m : Memory} : ∀ {lo : Nat}, Memory.wfFrom lo m = true → ∀ (k j : Nat) (v : Byte),
    Memory.readByte (Memory.writeByte m k v) j = if j = k then v else Memory.readByte m j := by
  induction m with
  | nil =>
    intro lo _ k j v
    by_cases hj : j = k
    · subst hj; by_cases hv : v = unlistedByte <;> simp [Memory.writeByte, Memory.readByte, hv]
    · by_cases hv : v = unlistedByte <;> simp [Memory.writeByte, Memory.readByte, hv, hj, Ne.symm hj]
  | cons c m ih =>
    obtain ⟨a, b⟩ := c
    intro lo h k j v
    simp only [Memory.wfFrom, Bool.and_eq_true, decide_eq_true_eq] at h
    have below : ∀ i, i < a + 1 → Memory.readByte m i = unlistedByte := fun i => readByte_below h.2
    rcases Nat.lt_trichotomy a k with hak | hak | hak
    · rw [Memory.writeByte, if_pos hak]
      by_cases ha : a = j
      · subst ha; simp [Memory.readByte, Nat.ne_of_lt hak]
      · simp [Memory.readByte, ha, ih h.2]
    · subst hak
      rw [Memory.writeByte, if_neg (Nat.lt_irrefl a), if_pos rfl]
      by_cases hj : j = a
      · subst hj
        by_cases hv : v = unlistedByte
        · simp [hv, below j (Nat.lt_succ_self j)]
        · simp [Memory.readByte, hv]
      · by_cases hv : v = unlistedByte <;> simp [Memory.readByte, hv, hj, Ne.symm hj]
    · rw [Memory.writeByte, if_neg (Nat.lt_asymm hak), if_neg (Nat.ne_of_gt hak)]
      by_cases hj : j = k
      · subst hj
        by_cases hv : v = unlistedByte
        · simp [Memory.readByte, hv, Nat.ne_of_gt hak, below j (Nat.lt_succ_of_lt hak)]
        · simp [Memory.readByte, hv]
      · by_cases hv : v = unlistedByte <;> simp [Memory.readByte, hv, hj, Ne.symm hj]

/-- Writing a byte keeps the canonical form. -/
theorem writeByte_wfFrom {m : Memory} : ∀ {lo : Nat}, Memory.wfFrom lo m = true → ∀ (k : Nat) (v : Byte),
    lo ≤ k → k < Config.memBytes → Memory.wfFrom lo (Memory.writeByte m k v) = true := by
  induction m with
  | nil =>
    intro lo _ k v hlo hk
    by_cases hv : v = unlistedByte <;> simp [Memory.writeByte, Memory.wfFrom, hv, hlo, hk]
  | cons c m ih =>
    obtain ⟨a, b⟩ := c
    intro lo h k v hlo hk
    simp only [Memory.wfFrom, Bool.and_eq_true, decide_eq_true_eq] at h
    obtain ⟨⟨⟨h1, h2⟩, h3⟩, hm⟩ := h
    unfold Memory.writeByte
    split_ifs with c1 c2 c3 c4
    · simp [Memory.wfFrom, h1, h2, h3, ih hm k v c1 hk]
    · cases m with
      | nil => rfl
      | cons d m =>
        obtain ⟨a', b'⟩ := d
        simp only [Memory.wfFrom, Bool.and_eq_true, decide_eq_true_eq] at hm ⊢
        exact ⟨⟨⟨by omega, hm.1.1.2⟩, hm.1.2⟩, hm.2⟩
    · subst c2
      simp [Memory.wfFrom, h1, h2, c3, hm]
    · simp [Memory.wfFrom, h1, h2, h3, hm]
    · simp [Memory.wfFrom, hlo, hk, c4, h2, h3, hm, show k + 1 ≤ a by omega]

theorem writeByte_wf {m : Memory} (h : Memory.wf m = true) {k : Nat} (hk : k < Config.memBytes) (v : Byte) :
    Memory.wf (Memory.writeByte m k v) = true := writeByte_wfFrom h k v (Nat.zero_le k) hk

/-! ### Whole words -/

theorem writeWord_eq (m : Memory) (a : Nat) (v : Word) : Memory.writeWord m a v =
    Memory.writeByte (Memory.writeByte (Memory.writeByte (Memory.writeByte m a (v.extractLsb' 24 8)) (a + 1)
      (v.extractLsb' 16 8)) (a + 2) (v.extractLsb' 8 8)) (a + 3) (v.extractLsb' 0 8) := rfl

/-- Writing a word inside memory keeps the canonical form. -/
theorem writeWord_wf {m : Memory} (h : Memory.wf m = true) {a : Nat} (ha : a + 3 < Config.memBytes) (v : Word) :
    Memory.wf (Memory.writeWord m a v) = true := by
  rw [writeWord_eq]
  exact writeByte_wf (writeByte_wf (writeByte_wf (writeByte_wf h (by omega) _) (by omega) _) (by omega) _) ha _

/-- What every byte reads as after a word was written into canonical memory. -/
theorem readByte_writeWord {m : Memory} (h : Memory.wf m = true) {a : Nat} (ha : a + 3 < Config.memBytes) (v : Word)
    (k : Nat) : Memory.readByte (Memory.writeWord m a v) k =
      if k = a + 3 then v.extractLsb' 0 8 else if k = a + 2 then v.extractLsb' 8 8
      else if k = a + 1 then v.extractLsb' 16 8 else if k = a then v.extractLsb' 24 8 else Memory.readByte m k := by
  have w1 := writeByte_wf h (k := a) (by omega) (v.extractLsb' 24 8)
  have w2 := writeByte_wf w1 (k := a + 1) (by omega) (v.extractLsb' 16 8)
  have w3 := writeByte_wf w2 (k := a + 2) (by omega) (v.extractLsb' 8 8)
  rw [writeWord_eq, readByte_writeByte w3, readByte_writeByte w2, readByte_writeByte w1, readByte_writeByte h]

/-- The four bytes of a word, by address: a word reads the same from two memories that agree on them. -/
theorem readWord_congr {m m' : Memory} {a : Nat} (h : ∀ k, a ≤ k → k < a + 4 → Memory.readByte m k = Memory.readByte m' k) :
    Memory.readWord m a = Memory.readWord m' a := by
  simp only [Memory.readWord]
  rw [h a (by omega) (by omega), h (a + 1) (by omega) (by omega), h (a + 2) (by omega) (by omega),
    h (a + 3) (by omega) (by omega)]

end Sys2Proof.Machine
end

