-- ==== Sys2Proof/Laws/Registers.lean ====
section
/-! SUPPORT. The register file: what the write path and the commit of a register write change (10_state.md R22;
40_datapath.md R126). -/

namespace Sys2Proof.Machine

/-- The write path's test is the `Discarded` of Safety. -/
theorem discards_iff (s : State) (d : RegIdx) : (s.params.r0Hardwired && d == 0#5) = true ↔ Discarded s d := by
  simp [Discarded]

theorem writeReg_of_discarded {s : State} {d : RegIdx} (h : Discarded s d) (v : Word) : s.writeReg d v = s :=
  if_pos ((discards_iff s d).mpr h)

theorem writeReg_of_kept {s : State} {d : RegIdx} (h : ¬ Discarded s d) (v : Word) :
    s.writeReg d v = { s with regs := s.regs.set d.toNat v } :=
  if_neg fun c => h ((discards_iff s d).mp c)

theorem writeReg_slot_self {s : State} {d : RegIdx} (h : ¬ Discarded s d) (v : Word) : (s.writeReg d v).slot d = v := by
  rw [writeReg_of_kept h]; simp [State.slot]

theorem writeReg_slot_other {s : State} {d i : RegIdx} (hne : i ≠ d) (v : Word) :
    (s.writeReg d v).slot i = s.slot i := by
  have hn : d.toNat ≠ i.toNat := fun e => hne (BitVec.eq_of_toNat_eq e.symm)
  unfold State.writeReg
  split
  · rfl
  · simp [State.slot, hn]

/-- Everything the write path does to the register file. -/
theorem writeReg_writes (s : State) (d : RegIdx) (v : Word) : WritesReg d v s (s.writeReg d v) :=
  ⟨⟨fun h => writeReg_slot_self h v, fun h => by rw [writeReg_of_discarded h]⟩, fun _ h => writeReg_slot_other h v⟩

/-- Everything the commit of a register write does to the register file; memory and the parameters stay, pc goes on by 4
(`commitReg_mem`, `commitReg_params`, `commitReg_pc`). -/
theorem commitReg_writes (s : State) (d : RegIdx) (v : Word) : WritesReg d v s (s.commitReg d v) :=
  writeReg_writes s d v

/-- What a register reads as when it is register 0 and hard-wired, and when it is not. -/
theorem readReg_of_discarded {s : State} {i : RegIdx} (h : Discarded s i) : s.readReg i = 0#32 :=
  if_pos ((discards_iff s i).mpr h)

theorem readReg_of_kept {s : State} {i : RegIdx} (h : ¬ Discarded s i) : s.readReg i = s.slot i :=
  if_neg fun c => h ((discards_iff s i).mp c)

/-- Two states with the same slots have the same register file. -/
theorem regs_eq_of_slot {s t : State} (h : SameRegs s t) : t.regs = s.regs := by
  apply Vector.ext
  intro k hk
  have := h (BitVec.ofNat 5 k)
  simpa [State.slot, Nat.mod_eq_of_lt hk] using this

end Sys2Proof.Machine
end

