-- ==== Sys2Proof/Laws/Exec.lean ====
section
/-! SUPPORT. What one step and each kind of meaning can do, said once, so that no later proof unfolds them. -/

namespace Sys2Proof.Machine

/-- Everything a completed step is: a fetched word, the instruction it spells, and that instruction's next state. -/
theorem step_next_cases {s t : State} (h : step s = .next t) :
    ∃ w i, fetch s = .ok w ∧ decodeWord w = .ok i ∧ exec i s = .next t := by
  unfold step at h
  split at h
  · exact absurd h (by simp [raise])
  · split at h
    · exact absurd h (by simp [raise])
    · exact ⟨_, _, by assumption, by assumption, h⟩

/-- Everything a faulted step is: a fault of the fetch, of the decoder, or of the instruction. -/
theorem step_fault_cases {s : State} {f : Fault} (h : step s = .fault f) :
    checkFetch s.pc = some f ∨
    (∃ w e, fetch s = .ok w ∧ decodeWord w = .error e ∧ f = faultOfIllegal e) ∨
    ∃ w i, fetch s = .ok w ∧ decodeWord w = .ok i ∧ exec i s = .fault f := by
  unfold step at h
  split at h
  · rename_i hf
    refine .inl ((fetch_error_iff _ _).mp ?_)
    rw [hf]; simpa [raise] using h
  · split at h
    · exact .inr (.inl ⟨_, _, by assumption, by assumption, by simpa [raise, eq_comm] using h⟩)
    · exact .inr (.inr ⟨_, _, by assumption, by assumption, h⟩)

/-- lw completes exactly on an accessible address, with the loaded word committed to r2. -/
theorem execLw_next_iff (r1 r2 : RegIdx) (offset : Offset) (s t : State) : execLw r1 r2 offset s = .next t ↔
    Accessible (effectiveAddress s r1 offset) ∧
    t = s.commitReg r2 (Memory.readWord s.mem (effectiveAddress s r1 offset).toNat) := by
  rw [← checkData_none_iff]
  unfold execLw
  cases checkData (effectiveAddress s r1 offset) <;> simp [raise, eq_comm]

/-- sw completes exactly on an accessible address, with the word stored. -/
theorem execSw_next_iff (r1 r2 : RegIdx) (offset : Offset) (s t : State) : execSw r1 r2 offset s = .next t ↔
    Accessible (effectiveAddress s r1 offset) ∧
    t = (s.writeMem (effectiveAddress s r1 offset).toNat (storeData s r1 r2)).advance := by
  rw [← checkData_none_iff]
  unfold execSw
  cases checkData (effectiveAddress s r1 offset) <;> simp [raise, eq_comm]

/-- lw and sw fault exactly where the data check does, with its fault. -/
theorem execLw_fault_iff (r1 r2 : RegIdx) (offset : Offset) (s : State) (f : Fault) :
    execLw r1 r2 offset s = .fault f ↔ checkData (effectiveAddress s r1 offset) = some f := by
  unfold execLw
  cases checkData (effectiveAddress s r1 offset) <;> simp [raise]

theorem execSw_fault_iff (r1 r2 : RegIdx) (offset : Offset) (s : State) (f : Fault) :
    execSw r1 r2 offset s = .fault f ↔ checkData (effectiveAddress s r1 offset) = some f := by
  unfold execSw
  cases checkData (effectiveAddress s r1 offset) <;> simp [raise]

/-- beq always completes: it changes only pc, and the branch is taken exactly when the two registers are equal. -/
theorem execBeq_eq (r1 r2 : RegIdx) (offset : Offset) (s : State) : execBeq r1 r2 offset s =
    .next (s.setPc (if s.readReg r1 = s.readReg r2 then branchTarget s.pc offset else s.pc + 4#32)) := by
  have hz : zeroFlag (s.readReg r1 - s.readReg r2) = true ↔ s.readReg r1 = s.readReg r2 := by
    simp [zeroFlag, BitVec.sub_eq_iff_eq_add]
  unfold execBeq
  by_cases h : s.readReg r1 = s.readReg r2
  · rw [if_pos (hz.mpr h), if_pos h]
  · rw [if_neg (mt hz.mp h), if_neg h]; rfl

end Sys2Proof.Machine
end

