-- ==== Sys2Proof/Laws/PerInstr.lean ====
section
/-! SUPPORT. Statements made per instruction: the encoded word carries the match bits of the instruction's row of
spec/opcode_table.json under its mask, and the instruction is well formed. -/

namespace Sys2Proof.Laws.EncodesToRow

/-- The mask of an instruction's row: the opcode, and for register-type rows the funct as well. -/
def rowMask (i : Instr) : Word := if i.opcode = 0#6 then 0xFC00003F#32 else 0xFC000000#32

/-- The match of an instruction's row. -/
def rowMatch (i : Instr) : Word :=
  match i with
  | .add _ _ _ => 0x00000020#32
  | .sub _ _ _ => 0x00000022#32
  | .and _ _ _ => 0x00000024#32
  | .or _ _ _ => 0x00000025#32
  | .slt _ _ _ => 0x0000002A#32
  | .sltu _ _ _ => 0x0000002B#32
  | .j _ => 0x08000000#32
  | .beq _ _ _ => 0x10000000#32
  | .addi _ _ _ => 0x20000000#32
  | .slti _ _ _ => 0x28000000#32
  | .sltiu _ _ _ => 0x2C000000#32
  | .lui _ _ _ => 0x3C000000#32
  | .lw _ _ _ => 0x8C000000#32
  | .sw _ _ _ => 0xAC000000#32

/-- The encoded word is one of its row's words, and the instruction is well formed. -/
def Statement (i : Instr) : Prop := encode i &&& rowMask i = rowMatch i ∧ i.wellFormed = true

/-- Masking an R-type word keeps its opcode and its funct. -/
theorem packR_mask (opcode : Opcode) (r1 r2 r3 : RegIdx) (funct : Funct) :
    packR opcode r1 r2 r3 funct &&& 0xFC00003F#32 = opcode ++ 0#20 ++ funct := by
  apply BitVec.eq_of_getLsbD_eq
  intro i hi
  simp only [packR, BitVec.getLsbD_and, BitVec.getLsbD_append]
  interval_cases i <;> simp

/-- Masking an I-type word keeps its opcode. -/
theorem packI_mask (opcode : Opcode) (r1 r2 : RegIdx) (offset : Offset) :
    packI opcode r1 r2 offset &&& 0xFC000000#32 = opcode ++ 0#26 := by
  apply BitVec.eq_of_getLsbD_eq
  intro i hi
  simp only [packI, BitVec.getLsbD_and, BitVec.getLsbD_append]
  interval_cases i <;> simp

/-- Masking a J-type word keeps its opcode. -/
theorem packJ_mask (opcode : Opcode) (target : Target) :
    packJ opcode target &&& 0xFC000000#32 = opcode ++ 0#26 := by
  apply BitVec.eq_of_getLsbD_eq
  intro i hi
  simp only [packJ, BitVec.getLsbD_and, BitVec.getLsbD_append]
  interval_cases i <;> simp

theorem add (r1 r2 r3 : RegIdx) : Statement (.add r1 r2 r3) := ⟨(packR_mask 0#6 r1 r2 r3 32#6).trans rfl, rfl⟩
theorem sub (r1 r2 r3 : RegIdx) : Statement (.sub r1 r2 r3) := ⟨(packR_mask 0#6 r1 r2 r3 34#6).trans rfl, rfl⟩
theorem and (r1 r2 r3 : RegIdx) : Statement (.and r1 r2 r3) := ⟨(packR_mask 0#6 r1 r2 r3 36#6).trans rfl, rfl⟩
theorem or (r1 r2 r3 : RegIdx) : Statement (.or r1 r2 r3) := ⟨(packR_mask 0#6 r1 r2 r3 37#6).trans rfl, rfl⟩
theorem slt (r1 r2 r3 : RegIdx) : Statement (.slt r1 r2 r3) := ⟨(packR_mask 0#6 r1 r2 r3 42#6).trans rfl, rfl⟩
theorem sltu (r1 r2 r3 : RegIdx) : Statement (.sltu r1 r2 r3) := ⟨(packR_mask 0#6 r1 r2 r3 43#6).trans rfl, rfl⟩
theorem j (target : Target) : Statement (.j target) := ⟨(packJ_mask 2#6 target).trans rfl, rfl⟩
theorem beq (r1 r2 : RegIdx) (offset : Offset) : Statement (.beq r1 r2 offset) := ⟨(packI_mask 4#6 r1 r2 offset).trans rfl, rfl⟩
theorem addi (r1 r2 : RegIdx) (offset : Offset) : Statement (.addi r1 r2 offset) := ⟨(packI_mask 8#6 r1 r2 offset).trans rfl, rfl⟩
theorem slti (r1 r2 : RegIdx) (offset : Offset) : Statement (.slti r1 r2 offset) := ⟨(packI_mask 10#6 r1 r2 offset).trans rfl, rfl⟩
theorem sltiu (r1 r2 : RegIdx) (offset : Offset) : Statement (.sltiu r1 r2 offset) := ⟨(packI_mask 11#6 r1 r2 offset).trans rfl, rfl⟩
theorem lui (r1 r2 : RegIdx) (offset : Offset) : Statement (.lui r1 r2 offset) := ⟨(packI_mask 15#6 r1 r2 offset).trans rfl, rfl⟩
theorem lw (r1 r2 : RegIdx) (offset : Offset) : Statement (.lw r1 r2 offset) := ⟨(packI_mask 35#6 r1 r2 offset).trans rfl, rfl⟩
theorem sw (r1 r2 : RegIdx) (offset : Offset) : Statement (.sw r1 r2 offset) := ⟨(packI_mask 43#6 r1 r2 offset).trans rfl, rfl⟩

end Sys2Proof.Laws.EncodesToRow
end

