-- ==== Sys2Proof/Tests/Slice0.lean ====
section
/-! SUPPORT. Tests with results taken from spec/95_test_vectors.md (the vector's name stands in each comment), the
refusals of every well-formedness check, and a witness for the hypotheses of every statement that has some. -/

namespace Sys2Proof.Tests

open Sys2Proof.Machine

/-! ### A small state -/

/-- pc = 0x100 with one word there, x[1] and x[2] as given, every other register 0. -/
def at256 (p : Params) (x1 x2 w : Word) : State :=
  { regs := ((Vector.replicate 32 0#32).set 1 x1).set 2 x2, mem := Memory.writeWord [] 0x100 w, pc := 0x100#32, params := p }

def plain : Params := Params.default
def inverted : Params := { Params.default with sltInverted := true }
def hardwired : Params := { Params.default with r0Hardwired := true }
def storesBase : Params := { Params.default with storeDataField := .r1 }

/-- The state after one step from s. -/
def after (s : State) : State := stateAfter s (step s)

/-- The result code of one step from s. -/
def code (s : State) : Option Nat := resultCode (step s)

/-! ### Well-formedness: each check refuses an ill-formed control vector (30_encoding.md R70) -/

def addiVector : ControlVector := ⟨.r2, .imm, .add, .alu, true, false, false, false, false⟩

theorem test_wf_accepts_addi : addiVector.wellFormed = true := by decide
theorem test_wf_refuses_write_without_destination : { addiVector with regDst := .na }.namesItsDestination = false := by decide
theorem test_wf_refuses_read_and_write : { addiVector with memRead := true, memWrite := true }.oneMemoryAccess = false := by decide
theorem test_wf_refuses_jump_and_branch : { addiVector with jump := true, branch := true }.oneTransfer = false := by decide
theorem test_wf_refuses_register_and_memory : { addiVector with memWrite := true }.oneDestination = false := by decide
theorem test_wf_refuses_unread_memory : { addiVector with memtoReg := .mem }.loadsWhatItSelects = false := by decide
theorem test_wf_refuses_together : { addiVector with regDst := .na }.wellFormed = false := by decide

/-! ### Decoding words written out bit by bit from the field tables -/

-- 41_register_type.md: opcode 000000, r1 00001, r2 00010, r3 00011, ignored 00000, funct.
theorem test_decode_add : decodeWord 0b000000_00001_00010_00011_00000_100000#32 = .ok (.add 1 2 3) := by rfl
theorem test_decode_sub : decodeWord 0b000000_00001_00010_00011_00000_100010#32 = .ok (.sub 1 2 3) := by rfl
theorem test_decode_and : decodeWord 0b000000_00001_00010_00011_00000_100100#32 = .ok (.and 1 2 3) := by rfl
theorem test_decode_or : decodeWord 0b000000_00001_00010_00011_00000_100101#32 = .ok (.or 1 2 3) := by rfl
theorem test_decode_slt : decodeWord 0b000000_00001_00010_00011_00000_101010#32 = .ok (.slt 1 2 3) := by rfl
theorem test_decode_sltu : decodeWord 0b000000_00001_00010_00011_00000_101011#32 = .ok (.sltu 1 2 3) := by rfl
-- 44_control_transfer.md: opcode 000010 and a 26-bit target; opcode 000100, r1, r2, offset.
theorem test_decode_j : decodeWord 0b000010_00000000000001000000000000#32 = .ok (.j 0x1000) := by rfl
theorem test_decode_beq : decodeWord 0b000100_00001_00010_1111111111111110#32 = .ok (.beq 1 2 0xFFFE) := by rfl
-- 42_immediate.md: opcode, r1, r2, offset.
theorem test_decode_addi : decodeWord 0b001000_00101_00110_0000000000000011#32 = .ok (.addi 5 6 3) := by rfl
theorem test_decode_slti : decodeWord 0b001010_00001_00010_1111111111111111#32 = .ok (.slti 1 2 0xFFFF) := by rfl
theorem test_decode_sltiu : decodeWord 0b001011_00001_00010_1111111111111111#32 = .ok (.sltiu 1 2 0xFFFF) := by rfl
theorem test_decode_lui : decodeWord 0b001111_00111_00010_0001001000110100#32 = .ok (.lui 7 2 0x1234) := by rfl
-- 43_load_store.md: opcode, r1 base, r2, offset.
theorem test_decode_lw : decodeWord 0b100011_00001_00010_0000000000001000#32 = .ok (.lw 1 2 8) := by rfl
theorem test_decode_sw : decodeWord 0b101011_00001_00010_0000000000001000#32 = .ok (.sw 1 2 8) := by rfl
/-- V-DEC-10: bits 10–6 set. -/
theorem test_decode_ignored_bits : decodeWord 0x00221FE0#32 = .ok (.add 1 2 3) := by rfl
/-- V-DEC-2 and V-DEC-6. -/
theorem test_decode_opcode_63 : decodeWord 0xFC000000#32 = .error .illegalOpcode := by rfl
theorem test_decode_zero : decodeWord 0#32 = .error .invalidALUSrcCombination := by rfl
/-- Three bytes hold no instruction. -/
theorem test_decode_truncated : decodeBytes [0x00, 0x22, 0x18] = .error .truncated := by rfl
theorem test_decode_table_word : decodeTableWord 32 0x20A60003 = some (.addi 5 6 3) := by rfl

/-! ### One step of each instruction -/

/-- V-R-2: signed overflow wraps. -/
theorem test_add_wraps : (after (at256 plain 0x7FFFFFFF#32 1#32 0x00221820#32)).slot 3 = 0x80000000#32 := by decide
/-- V-R-4: reads see the state before the step. -/
theorem test_add_source_is_destination : (after (at256 plain 3#32 0#32 0x00210820#32)).slot 1 = 6#32 := by decide
/-- V-R-5. -/
theorem test_sub_order : (after (at256 plain 5#32 7#32 0x00221822#32)).slot 3 = 0xFFFFFFFE#32 := by decide
/-- V-R-6. -/
theorem test_sub_min : (after (at256 plain 0x80000000#32 1#32 0x00221822#32)).slot 3 = 0x7FFFFFFF#32 := by decide
/-- V-R-8. -/
theorem test_and : (after (at256 plain 0xF0F0F0F0#32 0xFF00FF00#32 0x00221824#32)).slot 3 = 0xF000F000#32 := by decide
/-- V-R-9. -/
theorem test_or : (after (at256 plain 0xF0F0F0F0#32 0xFF00FF00#32 0x00221825#32)).slot 3 = 0xFFF0FFF0#32 := by decide
/-- V-SLT-1, both columns. -/
theorem test_slt : (after (at256 plain 0xFFFFFFFF#32 1#32 0x0022182A#32)).slot 3 = 1#32 := by decide
theorem test_slt_inverted : (after (at256 inverted 0xFFFFFFFF#32 1#32 0x0022182A#32)).slot 3 = 0#32 := by decide
/-- V-SLT-2, both columns. -/
theorem test_sltu : (after (at256 plain 0xFFFFFFFF#32 1#32 0x0022182B#32)).slot 3 = 0#32 := by decide
theorem test_sltu_inverted : (after (at256 inverted 0xFFFFFFFF#32 1#32 0x0022182B#32)).slot 3 = 1#32 := by decide
/-- V-I-3 and V-I-4. -/
theorem test_addi_minus_one : (after (at256 plain 0#32 0#32 0x2022FFFF#32)).slot 2 = 0xFFFFFFFF#32 := by decide
theorem test_addi_min : (after (at256 plain 0#32 0#32 0x20228000#32)).slot 2 = 0xFFFF8000#32 := by decide
/-- V-SLT-9, both columns. -/
theorem test_slti : (after (at256 plain 0#32 9#32 0x2822FFFF#32)).slot 2 = 0#32 := by decide
theorem test_slti_inverted : (after (at256 inverted 0#32 9#32 0x2822FFFF#32)).slot 2 = 1#32 := by decide
/-- V-SLT-11, both columns. -/
theorem test_sltiu : (after (at256 plain 5#32 9#32 0x2C22FFFF#32)).slot 2 = 1#32 := by decide
theorem test_sltiu_inverted : (after (at256 inverted 5#32 9#32 0x2C22FFFF#32)).slot 2 = 0#32 := by decide
/-- V-I-8: the sign-extension bits shift out. -/
theorem test_lui_top_bit : (after (at256 plain 0#32 0#32 0x3C028000#32)).slot 2 = 0x80000000#32 := by decide
/-- V-I-9: r1 is ignored. -/
theorem test_lui_ignores_r1 : (after (at256 plain 0xDEAD#32 0#32 0x3C221234#32)).slot 2 = 0x12340000#32 := by decide
/-- The word of the lw itself, read from the address it stands at: the base 0xF8 plus 8 is 0x100. -/
theorem test_lw : (after (at256 plain 0xF8#32 0#32 0x8C220008#32)).slot 2 = 0x8C220008#32 := by decide
/-- V-M-7: bounds before alignment. -/
theorem test_lw_bounds_first : code (at256 plain 0x10000#32 0#32 0x8C220001#32) = some 6 := by decide
/-- V-M-8 and V-M-9. -/
theorem test_sw : Memory.readWord (after (at256 plain 0x100#32 0xCAFEF00D#32 0xAC220008#32)).mem 0x108 = 0xCAFEF00D#32 := by decide
theorem test_sw_base : Memory.readWord (after (at256 storesBase 0x100#32 0xCAFEF00D#32 0xAC220008#32)).mem 0x108 = 0x100#32 := by decide
/-- V-CT-1 and V-CT-10. -/
theorem test_beq_taken : (after (at256 plain 9#32 9#32 0x10220002#32)).pc = 0x10C#32 := by decide
theorem test_beq_not_taken : (after (at256 plain 0#32 0x80000000#32 0x10220002#32)).pc = 0x104#32 := by decide
/-- V-CT-6 and V-CT-9. -/
theorem test_j : (after (at256 plain 0#32 0#32 0x08001000#32)).pc = 0x4000#32 := by decide
theorem test_j_far : (after (at256 plain 0#32 0#32 0x0BFFFFFF#32)).pc = 0x0FFFFFFC#32 := by decide

/-! ### Register 0 and faults -/

/-- V-R-10, both values of R0_HARDWIRED. -/
theorem test_r0_written : (after (at256 plain 5#32 7#32 0x00220020#32)).slot 0 = 12#32 := by decide
theorem test_r0_hardwired : (after (at256 hardwired 5#32 7#32 0x00220020#32)).slot 0 = 0#32 := by decide
/-- V-FETCH-1 and V-FETCH-5. -/
theorem test_fetch_misaligned : code { State.reset with pc := 2#32 } = some 1 := by decide
theorem test_fetch_bounds_first : code { State.reset with pc := 0x10001#32 } = some 2 := by decide
/-- V-DEC-1 and V-DEC-9. -/
theorem test_illegal_opcode : code (at256 plain 0#32 0#32 0x04000000#32) = some 3 := by decide
theorem test_invalid_funct : code (at256 plain 0#32 0#32 0x0000000C#32) = some 4 := by decide
/-- V-M-10: the fault code, and memory unchanged. -/
theorem test_sw_misaligned : code (at256 plain 0x100#32 5#32 0xAC220001#32) = some 5 := by decide
theorem test_sw_misaligned_keeps : (after (at256 plain 0x100#32 5#32 0xAC220001#32)) = at256 plain 0x100#32 5#32 0xAC220001#32 := by rfl
/-- The datapath gives the same step (V-R-2). -/
theorem test_datapath_add : (stateAfter State.reset (datapathStep (at256 plain 0x7FFFFFFF#32 1#32 0x00221820#32))).slot 3 = 0x80000000#32 := by decide
/-- A write of the byte an unlisted address reads as leaves no cell. -/
theorem test_memory_canonical : Memory.writeWord (Memory.writeWord [] 8 5#32) 8 0#32 = [] := by decide
/-- 20_memory.md R42: a loaded word is the value its digits denote. -/
theorem test_load_words : Memory.readWord (Memory.loadWords [] 0 [0x20010000#32, 0x20020005#32]) 4 = 0x20020005#32 := by decide

/-! ### Witnesses: concrete states and operands that meet the hypotheses of each statement together -/

/-- The state and word used by most witnesses: `add $3, $1, $2` at 0x100. -/
def addState : State := at256 plain 5#32 7#32 0x00221820#32
/-- `sw $2, 0($1)` at 0x100 with the last word's address in x[1] (V-M-11). -/
def swState : State := at256 plain 0xFFFC#32 7#32 0xAC220000#32
/-- `lw $2, 0($1)` at 0x100 with the last word's address in x[1]. -/
def lwState : State := at256 plain 0xFFFC#32 7#32 0x8C220000#32
/-- `lw $0, 0($1)` at 0x100 with register 0 hard-wired. -/
def lwZeroState : State := at256 hardwired 0xFFFC#32 7#32 0x8C200000#32

theorem witness_EncodeRestoresWord_register : decodeWord 0x00221FE0#32 = .ok (.add 1 2 3) ∧ (partition 0x00221FE0#32).opcode = 0#6 := ⟨rfl, rfl⟩
theorem witness_EncodeRestoresWord_other : decodeWord 0x8C220008#32 = .ok (.lw 1 2 8) ∧ (partition 0x8C220008#32).opcode ≠ 0#6 := ⟨rfl, by decide⟩

theorem witness_OpcodeMapIsTotal_spelled :
    (partition 0x0BFFFFFF#32).opcode = 2#6 ∧ (partition 0x1000FFFF#32).opcode = 4#6 ∧ (partition 0x20A60003#32).opcode = 8#6 ∧
    (partition 0x2822FFFF#32).opcode = 10#6 ∧ (partition 0x2C22FFFF#32).opcode = 11#6 ∧ (partition 0x3C028000#32).opcode = 15#6 ∧
    (partition 0x8C220008#32).opcode = 35#6 ∧ (partition 0xAC220008#32).opcode = 43#6 := by decide
theorem witness_OpcodeMapIsTotal_illegal :
    fetch (at256 plain 0#32 0#32 0x04000000#32) = .ok 0x04000000#32 ∧ controlDecoder (partition 0x04000000#32).opcode = none := ⟨rfl, rfl⟩
theorem witness_FunctMapIsTotal_spelled : (partition 0x00221820#32).opcode = 0#6 ∧
    (partition 0x00221820#32).funct = 32#6 ∧ (partition 0x00221822#32).funct = 34#6 ∧ (partition 0x00221824#32).funct = 36#6 ∧
    (partition 0x00221825#32).funct = 37#6 ∧ (partition 0x0022182A#32).funct = 42#6 ∧ (partition 0x0022182B#32).funct = 43#6 := by decide
theorem witness_FunctMapIsTotal_invalid :
    fetch (at256 plain 0#32 0#32 0x00221821#32) = .ok 0x00221821#32 ∧ (partition 0x00221821#32).opcode = 0#6 ∧
    (partition 0x00221821#32).funct ∉ ([32#6, 34#6, 36#6, 37#6, 42#6, 43#6] : List Funct) := ⟨rfl, rfl, by decide⟩
theorem witness_IgnoredBitsHaveNoEffect : (partition 0x00221820#32).opcode = 0#6 ∧
    0x00221820#32 &&& 0xFFFFF83F#32 = 0x00221FE0#32 &&& 0xFFFFF83F#32 ∧ 0x00221820#32 ≠ 0x00221FE0#32 := by decide
theorem witness_DecoderKeepsInvariants : ∃ c, controlDecoder 35#6 = some c ∧ c.memtoReg = .mem := ⟨_, rfl, rfl⟩
theorem witness_RegisterSelection : ALUOpKind.rtype ≠ .sub ∧ ∃ c, controlDecoder 0#6 = some c := ⟨by decide, _, rfl⟩
theorem witness_AluMatchesArithmetic_signed : LessSigned plain 0xFFFFFFFF#32 1#32 ∧ ¬ LessSigned plain 1#32 1#32 ∧
    LessSigned inverted 1#32 0xFFFFFFFF#32 ∧ ¬ LessSigned inverted 0xFFFFFFFF#32 1#32 := by
  unfold LessSigned; decide
theorem witness_AluMatchesArithmetic_unsigned : LessUnsigned plain 1#32 0xFFFFFFFF#32 ∧ ¬ LessUnsigned plain 1#32 1#32 ∧
    LessUnsigned inverted 0xFFFFFFFF#32 1#32 ∧ ¬ LessUnsigned inverted 1#32 0xFFFFFFFF#32 := by
  unfold LessUnsigned; decide
/-- Neither asserted (addi), MemRead alone (lw), MemWrite alone (sw). -/
theorem witness_MemoryUnitActsWhenAsked_vectors : (addiVector.memRead = false ∧ addiVector.memWrite = false) ∧
    (∃ c, controlDecoder 35#6 = some c ∧ c.memtoReg = .mem ∧ c.memRead = true ∧ c.memWrite = false) ∧
    ∃ c, controlDecoder 43#6 = some c ∧ c.memRead = false ∧ c.memWrite = true :=
  ⟨⟨rfl, rfl⟩, ⟨_, rfl, rfl, rfl, rfl⟩, _, rfl, rfl, rfl⟩
/-- The last word, the first address past memory, and the last misaligned address of memory. -/
theorem witness_MemoryUnitActsWhenAsked_addresses : Memory.wf swState.mem = true ∧ Accessible 0xFFFC#32 ∧
    65536 ≤ (0x10000#32).toNat ∧ (0xFFFF#32).toNat < 65536 ∧ (0xFFFF#32).toNat % 4 ≠ 0 := by unfold Accessible; decide
theorem witness_WritebackSelects : (addiVector.memtoReg = .alu ∧ addiVector.regWrite = true ∧ addiVector.regDst = .r2) ∧
    (∃ c, controlDecoder 0#6 = some c ∧ c.regWrite = true ∧ c.regDst = .r3) ∧
    (∃ c, controlDecoder 43#6 = some c ∧ c.regWrite = false) ∧ ∃ c, controlDecoder 35#6 = some c ∧ c.memtoReg = .mem :=
  ⟨⟨rfl, rfl, rfl⟩, ⟨_, rfl, rfl, rfl⟩, ⟨_, rfl, rfl⟩, _, rfl, rfl⟩
theorem witness_RegisterZeroFollowsParameter :
    addState.params.r0Hardwired = false ∧ (at256 hardwired 5#32 7#32 0x00220020#32).params.r0Hardwired = true := ⟨rfl, rfl⟩
theorem witness_MemoryReadAfterWrite : Memory.wf [(0, 1#8)] = true ∧ 65532 < 65536 ∧ 65532 % 4 = 0 ∧ 0 % 4 = 0 ∧ 0 ≠ 65532 := by decide
theorem witness_MemoryIsExtensional : Memory.wf [(65535, 1#8)] = true ∧ ∀ a, Memory.readByte [(65535, 1#8)] a = Memory.readByte [(65535, 1#8)] a :=
  ⟨by decide, fun _ => rfl⟩
theorem witness_StepKeepsInv : Inv addState ∧ step addState = .next (after addState) := ⟨⟨by decide, by decide⟩, rfl⟩
theorem witness_NextPcIsAligned : step swState = .next (after swState) := rfl
theorem witness_StepKeepsParams : step lwZeroState = .next (after lwZeroState) := rfl
theorem witness_StepRunsDecodedInstruction : Fetchable addState.pc ∧
    decodeWord (Memory.readWord addState.mem addState.pc.toNat) = .ok (.add 1 2 3) := ⟨⟨by decide, by decide⟩, rfl⟩
theorem witness_PlacedWordRuns : Memory.wf addState.mem = true ∧ decodeTableWord 32 0xAC220008 = some (.sw 1 2 8) := ⟨by decide, rfl⟩
/-- A pc that cannot be fetched: the word is placed at 0. -/
theorem witness_PlacedWordRuns_moved : checkFetch 0x10001#32 = some .outOfBoundsFetch ∧
    ((State.reset.setPc 0x10001#32).withFetchWord 32 0x20A60003).pc = 0#32 := ⟨rfl, rfl⟩

theorem witness_register_type_masks :
    0x00221FE0#32 &&& 0xFC00003F#32 = 0x00000020#32 ∧ 0x00221822#32 &&& 0xFC00003F#32 = 0x00000022#32 ∧
    0x00221824#32 &&& 0xFC00003F#32 = 0x00000024#32 ∧ 0x00221825#32 &&& 0xFC00003F#32 = 0x00000025#32 ∧
    0x0022182A#32 &&& 0xFC00003F#32 = 0x0000002A#32 ∧ 0x0022182B#32 &&& 0xFC00003F#32 = 0x0000002B#32 := by decide
theorem witness_other_masks :
    0x20A60003#32 &&& 0xFC000000#32 = 0x20000000#32 ∧ 0x2822FFFF#32 &&& 0xFC000000#32 = 0x28000000#32 ∧
    0x2C22FFFF#32 &&& 0xFC000000#32 = 0x2C000000#32 ∧ 0x3C028000#32 &&& 0xFC000000#32 = 0x3C000000#32 ∧
    0x8C220008#32 &&& 0xFC000000#32 = 0x8C000000#32 ∧ 0xAC220008#32 &&& 0xFC000000#32 = 0xAC000000#32 ∧
    0x10220002#32 &&& 0xFC000000#32 = 0x10000000#32 ∧ 0x0BFFFFFF#32 &&& 0xFC000000#32 = 0x08000000#32 := by decide
/-- Both clauses of `RegisterBecomes`: a write that is kept and a write that is discarded. -/
theorem witness_RegisterBecomes : ¬ Discarded addState 0#5 ∧ ¬ Discarded lwZeroState 1#5 ∧ Discarded lwZeroState 0#5 := by
  unfold Discarded; decide
theorem witness_SltWritesComparison : LessSigned addState.params (addState.readReg 1) (addState.readReg 2) ∧
    ¬ LessSigned addState.params (addState.readReg 2) (addState.readReg 1) := by unfold LessSigned; decide
theorem witness_SltuWritesComparison : LessUnsigned addState.params (addState.readReg 1) (addState.readReg 2) ∧
    ¬ LessUnsigned addState.params (addState.readReg 2) (addState.readReg 1) := by unfold LessUnsigned; decide
theorem witness_SltiWritesComparison : LessSigned addState.params (addState.readReg 1) ((6#16).signExtend 32) ∧
    ¬ LessSigned addState.params (addState.readReg 1) ((0xFFFF#16).signExtend 32) := by unfold LessSigned; decide
theorem witness_SltiuWritesComparison : LessUnsigned addState.params (addState.readReg 1) ((0xFFFF#16).signExtend 32) ∧
    ¬ LessUnsigned addState.params (addState.readReg 1) ((5#16).signExtend 32) := by unfold LessUnsigned; decide
/-- The last word and the first word of memory. -/
theorem witness_LwLoadsWord : Accessible (lwState.readReg 1 + (0#16).signExtend 32) ∧ Accessible (lwState.readReg 0 + (0#16).signExtend 32) := by
  unfold Accessible; decide
theorem witness_SwStoresWord : Memory.wf swState.mem = true ∧ Accessible (swState.readReg 1 + (0#16).signExtend 32) ∧
    Accessible (swState.readReg 0 + (0#16).signExtend 32) := by unfold Accessible; decide
theorem witness_BeqBranchesOnEqual : addState.readReg 3 = addState.readReg 4 ∧ addState.readReg 1 ≠ addState.readReg 2 := by decide

theorem witness_RegisterTypeFrame : Instr.add 1 2 3 ∈ [Instr.add 1 2 3, .sub 1 2 3, .and 1 2 3, .or 1 2 3, .slt 1 2 3, .sltu 1 2 3] ∧
    exec (.add 1 2 3) addState = .next (after addState) := ⟨by decide, rfl⟩
theorem witness_RegisterTypeFrame_discarded : Discarded lwZeroState 0#5 ∧
    exec (.sltu 1 2 0) lwZeroState = .next (stateAfter lwZeroState (exec (.sltu 1 2 0) lwZeroState)) := ⟨⟨rfl, rfl⟩, rfl⟩
theorem witness_ImmediateFrame : Instr.lui 1 2 5 ∈ [Instr.addi 1 2 5, .slti 1 2 5, .sltiu 1 2 5, .lui 1 2 5] ∧
    exec (.lui 1 2 5) addState = .next (stateAfter addState (exec (.lui 1 2 5) addState)) := ⟨by decide, rfl⟩
theorem witness_ImmediateFrame_discarded : Discarded lwZeroState 0#5 ∧
    exec (.addi 1 0 5) lwZeroState = .next (stateAfter lwZeroState (exec (.addi 1 0 5) lwZeroState)) := ⟨⟨rfl, rfl⟩, rfl⟩
theorem witness_LoadFrame : exec (.lw 1 2 0) lwState = .next (after lwState) := rfl
theorem witness_LoadFrame_discarded : Discarded lwZeroState 0#5 ∧ exec (.lw 1 0 0) lwZeroState = .next (after lwZeroState) := ⟨⟨rfl, rfl⟩, rfl⟩
theorem witness_StoreFrame : Memory.wf swState.mem = true ∧ exec (.sw 1 2 0) swState = .next (after swState) := ⟨by decide, rfl⟩
theorem witness_ControlTransferFrame : Instr.beq 1 2 5 ∈ [Instr.beq 1 2 5, .j 7] ∧
    exec (.beq 1 2 5) addState = .next (stateAfter addState (exec (.beq 1 2 5) addState)) ∧
    exec (.j 7) addState = .next (stateAfter addState (exec (.j 7) addState)) := ⟨by decide, rfl, rfl⟩

/-- Each side of 65536, and a multiple of 4 beside one that is none. -/
theorem witness_DataFaultsWhereChecked :
    65536 ≤ ((at256 plain 0xFFFF#32 0#32 0#32).readReg 1 + (1#16).signExtend 32).toNat ∧
    65536 ≤ ((at256 plain 0#32 0#32 0#32).readReg 1 + (0xFFFC#16).signExtend 32).toNat ∧
    ((at256 plain 0xFFFE#32 0#32 0#32).readReg 1 + (1#16).signExtend 32).toNat < 65536 ∧
    ((at256 plain 0xFFFE#32 0#32 0#32).readReg 1 + (1#16).signExtend 32).toNat % 4 ≠ 0 := by decide
theorem witness_OnlyLoadsAndStoresFault :
    exec (.lw 1 2 1) addState = .fault .misalignedMemoryAccess ∧ exec (.sw 0 2 0xFFFC) addState = .fault .outOfBoundsMemoryAccess := ⟨rfl, rfl⟩
/-- One step commits and the next faults: the run holds the state the committed step reached. -/
theorem witness_FaultCommitsNothing :
    run (fun _ => false) 2 addState = .faulted .invalidALUSrcCombination (after addState) ∧
    run (fun _ => false) 1 addState = .running (after addState) ∧
    step (after addState) = .fault .invalidALUSrcCombination := ⟨rfl, rfl, rfl⟩
theorem witness_StepCompletesExactly : Completes lwState := ⟨_, rfl⟩
theorem witness_OnlyStoreWordChangesMemory : Memory.wf swState.mem = true ∧ step swState = .next (after swState) := ⟨by decide, rfl⟩
theorem witness_StoreIsSeenByFetch : Memory.wf swState.mem = true ∧ exec (.sw 1 2 0) swState = .next (after swState) ∧
    ((after swState).setPc 0xFFFC#32).mem = (after swState).mem ∧
    ((after swState).setPc 0xFFFC#32).pc = effectiveAddress swState 1 0 := ⟨by decide, rfl, rfl, rfl⟩
theorem witness_StoreThenLoadReturnsValue : Memory.wf swState.mem = true ∧ exec (.sw 1 2 0) swState = .next (after swState) := ⟨by decide, rfl⟩
theorem witness_SelfLoopsKeepState_beq : addState.readReg 3 = addState.readReg 4 := rfl
theorem witness_SelfLoopsKeepState_j : addState.pc.toNat = 4 * (0x40#26).toNat := by decide
theorem witness_FaultedRunIsStuck : run (fun _ => false) 1 State.reset = .faulted .invalidALUSrcCombination State.reset := rfl
theorem witness_ResetMeetsInv : Memory.wf State.reset.mem = true := by decide

end Sys2Proof.Tests
end

section
/-! The MemoryUnit: what the decoder asks of it, a word read back after its write, and one equation per asserted or
unasserted operation (20_memory.md R43 to R46; 30_encoding.md R70). -/

namespace Sys2Proof

/-- Every control vector of the decode table meets the decoder invariants of 30_encoding.md R70: a check of the nine
rows of R69. -/
theorem controlDecoder_wellFormed {op : Opcode} {c : ControlVector} (h : controlDecoder op = some c) :
    c.wellFormed = true := by
  unfold controlDecoder at h
  split_ifs at h <;> (cases h; rfl)

theorem ControlVector.loadsWhatItSelects_of_wellFormed {c : ControlVector} (h : c.wellFormed = true) :
    c.loadsWhatItSelects = true := by
  simp only [ControlVector.wellFormed, Bool.and_eq_true] at h
  exact h.2

theorem ControlVector.loadsWhatItSelects_iff (c : ControlVector) :
    c.loadsWhatItSelects = true ↔ (c.memtoReg = .mem → c.memRead = true) := by
  simp [ControlVector.loadsWhatItSelects, imp_iff_not_or]

end Sys2Proof

namespace Sys2Proof.Machine

/-! ### Words and addresses -/

/-- A word written inside canonical memory reads back. -/
theorem readWord_writeWord_same {m : Memory} (h : Memory.wf m = true) {a : Nat} (ha : a + 3 < Config.memBytes) (v : Word) :
    Memory.readWord (Memory.writeWord m a v) a = v := by
  simp only [Memory.readWord, readByte_writeWord h ha]
  simpa using wordOfBytes_bytesOfWord v

/-- All four bytes of an accessible word lie inside memory. -/
theorem Accessible.lastByte_lt {addr : Word} (h : Accessible addr) : addr.toNat + 3 < Config.memBytes := by
  obtain ⟨hlt, haligned⟩ := h
  unfold Config.memBytes
  omega

/-! ### The MemoryUnit, asked and not asked -/

theorem memoryUnitFault_of_idle {c : ControlVector} (hr : c.memRead = false) (hw : c.memWrite = false) (addr : Word) :
    memoryUnitFault c addr = none := by
  simp [memoryUnitFault, hr, hw]

theorem memoryUnitFault_of_asserted {c : ControlVector} (h : c.memRead = true ∨ c.memWrite = true) (addr : Word) :
    memoryUnitFault c addr = checkData addr := by
  simp [memoryUnitFault, h]

theorem memoryUnitWrite_of_not_memWrite {c : ControlVector} (h : c.memWrite = false) (s : State) (addr data : Word) :
    memoryUnitWrite c s addr data = s := by
  simp [memoryUnitWrite, h]

theorem memoryUnitWrite_of_memWrite {c : ControlVector} (h : c.memWrite = true) (s : State) (addr data : Word) :
    memoryUnitWrite c s addr data = s.writeMem addr.toNat data := by
  simp [memoryUnitWrite, h]

theorem memoryUnitRead_of_not_memRead {c : ControlVector} (h : c.memRead = false) (m : Memory) (addr : Word) :
    memoryUnitRead c m addr = Config.undrivenReadData addr := by
  simp [memoryUnitRead, h]

theorem memoryUnitRead_of_memRead {c : ControlVector} (h : c.memRead = true) (m : Memory) (addr : Word) :
    memoryUnitRead c m addr = Memory.readWord m addr.toNat := by
  simp [memoryUnitRead, h]

/-- Settles O16: each output of the MemoryUnit follows its own signal, by the equations above; an asserted operation
faults as the data check does; the last clause is a decoder invariant. -/
theorem memoryUnitActsWhenAsked : Obligations.MemoryUnitActsWhenAsked := by
  refine ⟨fun c addr hr hw => memoryUnitFault_of_idle hr hw addr, fun c addr hasked => ?checks,
    fun c s addr data hw => memoryUnitWrite_of_not_memWrite hw s addr data,
    fun c s addr data hw hwf hacc => ?writes, fun c m m' addr hr => ?ignoresMemory,
    fun c m addr hr => memoryUnitRead_of_memRead hr m addr, fun op c hdec => ?selects⟩
  case checks =>
    rw [memoryUnitFault_of_asserted hasked]
    exact ⟨(checkData_none_iff addr).mpr, fun hout => (checkData_some_iff addr _).mpr (.inl ⟨hout, rfl⟩),
      fun hlt hmis => (checkData_some_iff addr _).mpr (.inr ⟨hlt, hmis, rfl⟩)⟩
  case writes =>
    rw [memoryUnitWrite_of_memWrite hw, writeMem_mem]
    exact readWord_writeWord_same hwf hacc.lastByte_lt data
  case ignoresMemory =>
    rw [memoryUnitRead_of_not_memRead hr, memoryUnitRead_of_not_memRead hr]
  case selects =>
    have hwf := controlDecoder_wellFormed hdec
    exact c.loadsWhatItSelects_iff.mp (ControlVector.loadsWhatItSelects_of_wellFormed hwf)

end Sys2Proof.Machine
end

section
/-! The word format: what each field of the partition is as a number, what each packed word is as a number, and that the
partition undoes the packing (30_encoding.md R60 to R63). -/

namespace Sys2Proof

/-! ### Bit fields as numbers -/

theorem toNat_extractLsb'_eq_div_mod {n : Nat} (x : BitVec n) (start len : Nat) :
    (x.extractLsb' start len).toNat = x.toNat / 2 ^ start % 2 ^ len := by
  rw [BitVec.extractLsb'_toNat, Nat.shiftRight_eq_div_pow]

theorem toNat_extractLsb'_zero {n : Nat} (x : BitVec n) (len : Nat) :
    (x.extractLsb' 0 len).toNat = x.toNat % 2 ^ len := by
  rw [toNat_extractLsb'_eq_div_mod, pow_zero, Nat.div_one]

theorem toNat_append_eq_add {m n : Nat} (x : BitVec m) (y : BitVec n) :
    (x ++ y).toNat = x.toNat * 2 ^ n + y.toNat := by
  rw [BitVec.toNat_append, ← Nat.shiftLeft_add_eq_or_of_lt y.isLt, Nat.shiftLeft_eq]

/-! ### InstructionPartition, field by field (R62) -/

/-- The opcode is the topmost field, so no reduction modulo its width is left. -/
theorem partition_opcode_toNat (w : Word) : (partition w).opcode.toNat = w.toNat / 2 ^ 26 := by
  have hfits : w.toNat / 2 ^ 26 < 2 ^ 6 := by omega
  exact (toNat_extractLsb'_eq_div_mod w 26 6).trans (Nat.mod_eq_of_lt hfits)

theorem partition_r1_toNat (w : Word) : (partition w).r1.toNat = w.toNat / 2 ^ 21 % 2 ^ 5 :=
  toNat_extractLsb'_eq_div_mod w 21 5

theorem partition_r2_toNat (w : Word) : (partition w).r2.toNat = w.toNat / 2 ^ 16 % 2 ^ 5 :=
  toNat_extractLsb'_eq_div_mod w 16 5

theorem partition_r3_toNat (w : Word) : (partition w).r3.toNat = w.toNat / 2 ^ 11 % 2 ^ 5 :=
  toNat_extractLsb'_eq_div_mod w 11 5

theorem partition_funct_toNat (w : Word) : (partition w).funct.toNat = w.toNat % 2 ^ 6 :=
  toNat_extractLsb'_zero w 6

theorem partition_offset_toNat (w : Word) : (partition w).offset.toNat = w.toNat % 2 ^ 16 :=
  toNat_extractLsb'_zero w 16

theorem partition_target_toNat (w : Word) : (partition w).target.toNat = w.toNat % 2 ^ 26 :=
  toNat_extractLsb'_zero w 26

/-- Settles O1: the partition's field equations, together. -/
theorem partitionReadsFields : Obligations.PartitionReadsFields := fun w =>
  ⟨partition_opcode_toNat w, partition_r1_toNat w, partition_r2_toNat w, partition_r3_toNat w,
    partition_funct_toNat w, partition_offset_toNat w, partition_target_toNat w⟩

/-! ### The packed words as sums of shifted fields (R63) -/

theorem packR_toNat (op : Opcode) (r1 r2 r3 : RegIdx) (funct : Funct) : (packR op r1 r2 r3 funct).toNat =
    op.toNat * 2 ^ 26 + r1.toNat * 2 ^ 21 + r2.toNat * 2 ^ 16 + r3.toNat * 2 ^ 11 + funct.toNat := by
  simp only [packR, toNat_append_eq_add, BitVec.toNat_ofNat]
  ring

theorem packI_toNat (op : Opcode) (r1 r2 : RegIdx) (offset : Offset) :
    (packI op r1 r2 offset).toNat = op.toNat * 2 ^ 26 + r1.toNat * 2 ^ 21 + r2.toNat * 2 ^ 16 + offset.toNat := by
  simp only [packI, toNat_append_eq_add]
  ring

theorem packJ_toNat (op : Opcode) (target : Target) : (packJ op target).toNat = op.toNat * 2 ^ 26 + target.toNat :=
  toNat_append_eq_add op target

/-! ### The partition undoes the packing (R63)

Each field is recovered by dividing the sum by its weight: the fields below it are smaller than the weight. -/

theorem partition_packR (op : Opcode) (r1 r2 r3 : RegIdx) (funct : Funct) :
    (partition (packR op r1 r2 r3 funct)).opcode = op ∧ (partition (packR op r1 r2 r3 funct)).r1 = r1 ∧
    (partition (packR op r1 r2 r3 funct)).r2 = r2 ∧ (partition (packR op r1 r2 r3 funct)).r3 = r3 ∧
    (partition (packR op r1 r2 r3 funct)).funct = funct := by
  refine ⟨?_, ?_, ?_, ?_, ?_⟩ <;> apply BitVec.eq_of_toNat_eq
  · rw [partition_opcode_toNat, packR_toNat]; omega
  · rw [partition_r1_toNat, packR_toNat]; omega
  · rw [partition_r2_toNat, packR_toNat]; omega
  · rw [partition_r3_toNat, packR_toNat]; omega
  · rw [partition_funct_toNat, packR_toNat]; omega

theorem partition_packI (op : Opcode) (r1 r2 : RegIdx) (offset : Offset) :
    (partition (packI op r1 r2 offset)).opcode = op ∧ (partition (packI op r1 r2 offset)).r1 = r1 ∧
    (partition (packI op r1 r2 offset)).r2 = r2 ∧ (partition (packI op r1 r2 offset)).offset = offset := by
  refine ⟨?_, ?_, ?_, ?_⟩ <;> apply BitVec.eq_of_toNat_eq
  · rw [partition_opcode_toNat, packI_toNat]; omega
  · rw [partition_r1_toNat, packI_toNat]; omega
  · rw [partition_r2_toNat, packI_toNat]; omega
  · rw [partition_offset_toNat, packI_toNat]; omega

theorem partition_packJ (op : Opcode) (target : Target) :
    (partition (packJ op target)).opcode = op ∧ (partition (packJ op target)).target = target := by
  refine ⟨?_, ?_⟩ <;> apply BitVec.eq_of_toNat_eq
  · rw [partition_opcode_toNat, packJ_toNat]; omega
  · rw [partition_target_toNat, packJ_toNat]; omega

/-- Settles O2: per view, the packed word as a number and the fields recovered from it. -/
theorem partitionInvertsPack : Obligations.PartitionInvertsPack :=
  ⟨fun op r1 r2 r3 funct => ⟨packR_toNat op r1 r2 r3 funct, partition_packR op r1 r2 r3 funct⟩,
    fun op r1 r2 offset => ⟨packI_toNat op r1 r2 offset, partition_packI op r1 r2 offset⟩,
    fun op target => ⟨packJ_toNat op target, partition_packJ op target⟩⟩

end Sys2Proof
end

section
/-! The opcode map and the funct map: which codes are listed, one equation of the decoder per listed code, and the fault
of a step on any other (30_encoding.md R71 to R73). -/

namespace Sys2Proof

/-! ### The opcode map (R71) -/

theorem controlDecoder_isSome_iff (op : Opcode) : (controlDecoder op).isSome = true ↔
    op ∈ ([0#6, 2#6, 4#6, 8#6, 10#6, 11#6, 15#6, 35#6, 43#6] : List Opcode) := by
  unfold controlDecoder
  split_ifs <;> simp_all

theorem decodeFields_of_opcode_zero {f : Fields} (h : f.opcode = 0#6) : decodeFields f = decodeRType f := by
  simp [decodeFields, h]

theorem decodeFields_j {f : Fields} (h : f.opcode = 2#6) : decodeFields f = .ok (.j f.target) := by
  simp [decodeFields, h]

theorem decodeFields_beq {f : Fields} (h : f.opcode = 4#6) : decodeFields f = .ok (.beq f.r1 f.r2 f.offset) := by
  simp [decodeFields, h]

theorem decodeFields_addi {f : Fields} (h : f.opcode = 8#6) : decodeFields f = .ok (.addi f.r1 f.r2 f.offset) := by
  simp [decodeFields, h]

theorem decodeFields_slti {f : Fields} (h : f.opcode = 10#6) : decodeFields f = .ok (.slti f.r1 f.r2 f.offset) := by
  simp [decodeFields, h]

theorem decodeFields_sltiu {f : Fields} (h : f.opcode = 11#6) : decodeFields f = .ok (.sltiu f.r1 f.r2 f.offset) := by
  simp [decodeFields, h]

theorem decodeFields_lui {f : Fields} (h : f.opcode = 15#6) : decodeFields f = .ok (.lui f.r1 f.r2 f.offset) := by
  simp [decodeFields, h]

theorem decodeFields_lw {f : Fields} (h : f.opcode = 35#6) : decodeFields f = .ok (.lw f.r1 f.r2 f.offset) := by
  simp [decodeFields, h]

theorem decodeFields_sw {f : Fields} (h : f.opcode = 43#6) : decodeFields f = .ok (.sw f.r1 f.r2 f.offset) := by
  simp [decodeFields, h]

/-! ### The funct map under opcode 0 (R72) -/

theorem decodeRType_add {f : Fields} (h : f.funct = 32#6) : decodeRType f = .ok (.add f.r1 f.r2 f.r3) := by
  simp [decodeRType, h]

theorem decodeRType_sub {f : Fields} (h : f.funct = 34#6) : decodeRType f = .ok (.sub f.r1 f.r2 f.r3) := by
  simp [decodeRType, h]

theorem decodeRType_and {f : Fields} (h : f.funct = 36#6) : decodeRType f = .ok (.and f.r1 f.r2 f.r3) := by
  simp [decodeRType, h]

theorem decodeRType_or {f : Fields} (h : f.funct = 37#6) : decodeRType f = .ok (.or f.r1 f.r2 f.r3) := by
  simp [decodeRType, h]

theorem decodeRType_slt {f : Fields} (h : f.funct = 42#6) : decodeRType f = .ok (.slt f.r1 f.r2 f.r3) := by
  simp [decodeRType, h]

theorem decodeRType_sltu {f : Fields} (h : f.funct = 43#6) : decodeRType f = .ok (.sltu f.r1 f.r2 f.r3) := by
  simp [decodeRType, h]

end Sys2Proof

namespace Sys2Proof.Machine

/-- The selector has no operation exactly for the function codes that the decoder rejects under opcode 0. -/
theorem functOperation_eq_none_iff (f : Funct) :
    functOperation f = none ↔ f ∉ ([32#6, 34#6, 36#6, 37#6, 42#6, 43#6] : List Funct) := by
  unfold functOperation
  split_ifs <;> simp_all

/-- A step on a fetched word that spells no instruction ends with that word's fault (R73). -/
theorem step_of_decode_error {s : State} {w : Word} {e : IllegalWord} (hfetch : fetch s = .ok w)
    (hdecode : decodeWord w = .error e) : step s = .fault (faultOfIllegal e) := by
  simp only [step, hfetch, hdecode, raise]

/-- Settles O6: the decoder's equation for each listed opcode; an unlisted one is a decode error, hence a fault of the
step. -/
theorem opcodeMapIsTotal : Obligations.OpcodeMapIsTotal := by
  refine ⟨controlDecoder_isSome_iff, by decide, fun w => ⟨decodeFields_j, decodeFields_beq, decodeFields_addi,
    decodeFields_slti, decodeFields_sltiu, decodeFields_lui, decodeFields_lw, decodeFields_sw⟩, ?unlisted⟩
  case unlisted =>
    intro s w hfetch hnone
    have hdecode : decodeWord w = .error .illegalOpcode := (decodeFields_illegalOpcode_iff _).mpr hnone
    exact step_of_decode_error hfetch hdecode

/-- Settles O7: the selector's table, the decoder's equation for each listed function code under opcode 0, and an
unlisted one as a decode error, hence a fault of the step. -/
theorem functMapIsTotal : Obligations.FunctMapIsTotal := by
  refine ⟨rfl, rfl, rfl, rfl, rfl, rfl, fun f => (functOperation_eq_none_iff f).mpr, ?listed, ?unlisted⟩
  case listed =>
    intro w hop
    have hdecode : decodeWord w = decodeRType (partition w) := decodeFields_of_opcode_zero hop
    rw [hdecode]
    exact ⟨decodeRType_add, decodeRType_sub, decodeRType_and, decodeRType_or, decodeRType_slt, decodeRType_sltu⟩
  case unlisted =>
    intro s w hfetch hop hfunct
    have hdecode : decodeWord w = .error .invalidALUSrcCombination := (decodeFields_invalid_iff _).mpr ⟨hop, hfunct⟩
    exact step_of_decode_error hfetch hdecode

end Sys2Proof.Machine
end

section
/-! The SignExtender (30_encoding.md R64). -/

namespace Sys2Proof.Machine

/-- Extending a 16-bit offset puts sixteen copies of its sign bit above it. -/
theorem signExtend32_eq_append (offset : Offset) :
    signExtend32 offset = (if offset.getLsbD 15 then 0xFFFF#16 else 0x0000#16) ++ offset :=
  BitVec.signExtend_eq_append_of_le (by decide)

theorem signExtend32_toInt (offset : Offset) : (signExtend32 offset).toInt = offset.toInt :=
  BitVec.toInt_signExtend_of_le (by decide)

/-- Settles O9: the two equations of the extender; the rule's examples are evaluated. -/
theorem signExtenderCopiesBitFifteen : Obligations.SignExtenderCopiesBitFifteen :=
  ⟨fun offset => ⟨signExtend32_eq_append offset, signExtend32_toInt offset⟩, rfl, rfl⟩

end Sys2Proof.Machine
end

section
/-! OperandAndOpSelector, the ALU and the RegisterWriteback: what each operation computes and what each multiplexer
selects (40_datapath.md R112, R115, R116, R126, R127). -/

namespace Sys2Proof.Machine

/-! ### The operation choice (R112) -/

/-- The function code plays no part under ALUSrc = Imm. -/
theorem selectOperation_imm (aluOp : ALUOpKind) (f : Funct) :
    selectOperation .imm aluOp f = immediateOperation aluOp := rfl

/-- Settles O12: the eight rows of the immediate operation's table. -/
theorem immediateSelection : Obligations.ImmediateSelection := by
  intro f
  simp only [selectOperation_imm]
  exact ⟨rfl, rfl, rfl, rfl, rfl, rfl, rfl, rfl⟩

/-! ### The comparisons and the Zero flag (R115, R116) -/

theorem ltSigned_iff (p : Params) (a b : Word) : ltSigned p a b = true ↔ LessSigned p a b := by
  cases h : p.sltInverted <;> simp [ltSigned, LessSigned, h, BitVec.slt_iff_toInt_lt, BitVec.ult_iff_toNat_lt]

theorem ltUnsigned_iff (p : Params) (a b : Word) : ltUnsigned p a b = true ↔ LessUnsigned p a b := by
  cases h : p.sltInverted <;> simp [ltUnsigned, LessUnsigned, h, BitVec.slt_iff_toInt_lt, BitVec.ult_iff_toNat_lt]

theorem flagWord_of_true {b : Bool} (h : b = true) : flagWord b = 1#32 := if_pos h

theorem flagWord_of_not_true {b : Bool} (h : ¬ b = true) : flagWord b = 0#32 := if_neg h

theorem zeroFlag_iff_toNat (result : Word) : zeroFlag result = true ↔ result.toNat = 0 := by
  rw [zeroFlag, beq_iff_eq, ← BitVec.toNat_inj, BitVec.toNat_ofNat, Nat.zero_mod]

/-! ### The ALU's results (R115) -/

theorem aluResult_add_toNat (p : Params) (a b : Word) :
    (aluResult p .add a b).toNat = (a.toNat + b.toNat) % 2 ^ 32 := BitVec.toNat_add a b

/-- The words' difference is the sum of A and 2^32 - B, which over the integers is A - B modulo 2^32. -/
theorem aluResult_sub_toNat (p : Params) (a b : Word) :
    ((aluResult p .sub a b).toNat : Int) = ((a.toNat : Int) - b.toNat) % 2 ^ 32 := by
  have hsub : (aluResult p .sub a b).toNat = (2 ^ 32 - b.toNat + a.toNat) % 2 ^ 32 := BitVec.toNat_sub a b
  rw [hsub]
  omega

theorem aluResult_slt_of_less {p : Params} {a b : Word} (h : LessSigned p a b) : aluResult p .slt a b = 1#32 :=
  flagWord_of_true ((ltSigned_iff p a b).mpr h)

theorem aluResult_slt_of_not_less {p : Params} {a b : Word} (h : ¬ LessSigned p a b) : aluResult p .slt a b = 0#32 :=
  flagWord_of_not_true (mt (ltSigned_iff p a b).mp h)

theorem aluResult_sltu_of_less {p : Params} {a b : Word} (h : LessUnsigned p a b) : aluResult p .sltu a b = 1#32 :=
  flagWord_of_true ((ltUnsigned_iff p a b).mpr h)

theorem aluResult_sltu_of_not_less {p : Params} {a b : Word} (h : ¬ LessUnsigned p a b) :
    aluResult p .sltu a b = 0#32 :=
  flagWord_of_not_true (mt (ltUnsigned_iff p a b).mp h)

theorem aluResult_sll16_toNat (p : Params) (a b : Word) :
    (aluResult p .sll16 a b).toNat = b.toNat * 2 ^ 16 % 2 ^ 32 := by
  rw [← Nat.shiftLeft_eq]
  exact BitVec.toNat_shiftLeft

/-- Settles O14: one clause per operation, in the order of the operations; the last is the Zero flag of any of them. -/
theorem aluMatchesArithmetic : Obligations.AluMatchesArithmetic := fun p a b =>
  ⟨aluResult_add_toNat p a b, aluResult_sub_toNat p a b,
    fun _ => BitVec.getLsbD_and, fun _ => BitVec.getLsbD_or,
    aluResult_slt_of_less, aluResult_slt_of_not_less, aluResult_sltu_of_less, aluResult_sltu_of_not_less,
    aluResult_sll16_toNat p a b, fun op => zeroFlag_iff_toNat (aluResult p op a b)⟩

/-! ### The writeback (R126, R127) -/

theorem writebackData_of_mem {c : ControlVector} (h : c.memtoReg = .mem) (readData result : Word) :
    writebackData c readData result = readData := by
  simp [writebackData, h]

theorem writebackData_of_alu {c : ControlVector} (h : c.memtoReg = .alu) (readData result : Word) :
    writebackData c readData result = result := by
  simp [writebackData, h]

theorem registerWriteback_of_not_regWrite {c : ControlVector} (h : c.regWrite = false) (s : State) (r2 r3 : RegIdx)
    (data : Word) : registerWriteback c s r2 r3 data = s := by
  simp [registerWriteback, h]

theorem registerWriteback_of_r2 {c : ControlVector} (hw : c.regWrite = true) (hd : c.regDst = .r2) (s : State)
    (r2 r3 : RegIdx) (data : Word) : registerWriteback c s r2 r3 data = s.writeReg r2 data := by
  simp [registerWriteback, hw, hd]

theorem registerWriteback_of_r3 {c : ControlVector} (hw : c.regWrite = true) (hd : c.regDst = .r3) (s : State)
    (r2 r3 : RegIdx) (data : Word) : registerWriteback c s r2 r3 data = s.writeReg r3 data := by
  simp [registerWriteback, hw, hd]

/-- Settles O17: each selected destination goes through the register file's write path. -/
theorem writebackSelects : Obligations.WritebackSelects := by
  refine fun c s r2 r3 readData result => ⟨fun h => writebackData_of_mem h readData result,
    fun h => writebackData_of_alu h readData result, fun h => registerWriteback_of_not_regWrite h s r2 r3 _,
    fun hw hd => ?toR2, fun hw hd => ?toR3⟩
  case toR2 =>
    rw [registerWriteback_of_r2 hw hd]
    exact writeReg_writes s r2 _
  case toR3 =>
    rw [registerWriteback_of_r3 hw hd]
    exact writeReg_writes s r3 _

end Sys2Proof.Machine
end

section
/-! The register-type instructions: which words spell them, and the one register write each commits
(30_encoding.md R62, R72; 41_register_type.md R141, R143, R144). -/

namespace Sys2Proof

/-! ### Words of a table row: a mask that covers a field fixes the field -/

theorem partition_opcode_and (w mask : Word) :
    (partition (w &&& mask)).opcode = (partition w).opcode &&& (partition mask).opcode :=
  BitVec.extractLsb'_and

theorem partition_funct_and (w mask : Word) :
    (partition (w &&& mask)).funct = (partition w).funct &&& (partition mask).funct :=
  BitVec.extractLsb'_and

theorem partition_opcode_of_row {w mask row : Word} (hrow : w &&& mask = row)
    (hmask : (partition mask).opcode = BitVec.allOnes 6) : (partition w).opcode = (partition row).opcode := by
  rw [← hrow, partition_opcode_and, hmask, BitVec.and_allOnes]

theorem partition_funct_of_row {w mask row : Word} (hrow : w &&& mask = row)
    (hmask : (partition mask).funct = BitVec.allOnes 6) : (partition w).funct = (partition row).funct := by
  rw [← hrow, partition_funct_and, hmask, BitVec.and_allOnes]

/-- A word of a row under the register-type mask, with opcode 0, goes to the funct map with the row's function code. -/
theorem decodeWord_of_registerRow {w row : Word} (hrow : w &&& 0xFC00003F#32 = row)
    (hop : (partition row).opcode = 0#6) :
    decodeWord w = decodeRType (partition w) ∧ (partition w).funct = (partition row).funct :=
  ⟨decodeFields_of_opcode_zero ((partition_opcode_of_row hrow rfl).trans hop), partition_funct_of_row hrow rfl⟩

theorem decodeWord_add_of_row {w : Word} (hrow : w &&& 0xFC00003F#32 = 0x00000020#32) :
    decodeWord w = .ok (.add (partition w).r1 (partition w).r2 (partition w).r3) := by
  obtain ⟨hdecode, hfunct⟩ := decodeWord_of_registerRow hrow rfl
  exact hdecode.trans (decodeRType_add hfunct)

theorem decodeWord_and_of_row {w : Word} (hrow : w &&& 0xFC00003F#32 = 0x00000024#32) :
    decodeWord w = .ok (.and (partition w).r1 (partition w).r2 (partition w).r3) := by
  obtain ⟨hdecode, hfunct⟩ := decodeWord_of_registerRow hrow rfl
  exact hdecode.trans (decodeRType_and hfunct)

theorem decodeWord_or_of_row {w : Word} (hrow : w &&& 0xFC00003F#32 = 0x00000025#32) :
    decodeWord w = .ok (.or (partition w).r1 (partition w).r2 (partition w).r3) := by
  obtain ⟨hdecode, hfunct⟩ := decodeWord_of_registerRow hrow rfl
  exact hdecode.trans (decodeRType_or hfunct)

end Sys2Proof

namespace Sys2Proof.Machine

/-! ### What executing them commits -/

theorem exec_add (r1 r2 r3 : RegIdx) (s : State) :
    exec (.add r1 r2 r3) s = .next (s.commitReg r3 (s.readReg r1 + s.readReg r2)) := rfl

theorem exec_and (r1 r2 r3 : RegIdx) (s : State) :
    exec (.and r1 r2 r3) s = .next (s.commitReg r3 (s.readReg r1 &&& s.readReg r2)) := rfl

theorem exec_or (r1 r2 r3 : RegIdx) (s : State) :
    exec (.or r1 r2 r3) s = .next (s.commitReg r3 (s.readReg r1 ||| s.readReg r2)) := rfl

/-- An instruction that commits one register write completes, with x[d] <- v (or the write discarded) and pc <- pc + 4. -/
theorem exists_next_of_commitReg {r : Result} {s : State} {d : RegIdx} {v : Word} (h : r = .next (s.commitReg d v)) :
    ∃ t, r = .next t ∧ RegisterBecomes d v s t ∧ t.pc = s.pc + 4#32 := by
  obtain ⟨hbecomes, _⟩ := commitReg_writes s d v
  exact ⟨s.commitReg d v, h, hbecomes, commitReg_pc s d v⟩

/-- Settles O29: the row fixes opcode and funct, so the funct map answers add; add commits the sum. -/
theorem addWritesSum : Obligations.AddWritesSum :=
  ⟨fun _ hrow => decodeWord_add_of_row hrow, fun r1 r2 r3 s => exists_next_of_commitReg (exec_add r1 r2 r3 s)⟩

/-- Settles O31: the row fixes opcode and funct, so the funct map answers and; and commits the bitwise conjunction. -/
theorem andWritesConjunction : Obligations.AndWritesConjunction :=
  ⟨fun _ hrow => decodeWord_and_of_row hrow, fun r1 r2 r3 s => exists_next_of_commitReg (exec_and r1 r2 r3 s)⟩

/-- Settles O32: the row fixes opcode and funct, so the funct map answers or; or commits the bitwise disjunction. -/
theorem orWritesDisjunction : Obligations.OrWritesDisjunction :=
  ⟨fun _ hrow => decodeWord_or_of_row hrow, fun r1 r2 r3 s => exists_next_of_commitReg (exec_or r1 r2 r3 s)⟩

end Sys2Proof.Machine
end

section
/-! addi and lui: which words spell them, and the one register write each commits (30_encoding.md R71;
42_immediate.md R161, R164). -/

namespace Sys2Proof

/-! ### Words of their rows: the mask covers the opcode alone -/

theorem decodeWord_addi_of_row {w : Word} (hrow : w &&& 0xFC000000#32 = 0x20000000#32) :
    decodeWord w = .ok (.addi (partition w).r1 (partition w).r2 (partition w).offset) :=
  have hopcode : (partition w).opcode = 8#6 := partition_opcode_of_row hrow rfl
  decodeFields_addi hopcode

theorem decodeWord_lui_of_row {w : Word} (hrow : w &&& 0xFC000000#32 = 0x3C000000#32) :
    decodeWord w = .ok (.lui (partition w).r1 (partition w).r2 (partition w).offset) :=
  have hopcode : (partition w).opcode = 15#6 := partition_opcode_of_row hrow rfl
  decodeFields_lui hopcode

end Sys2Proof

namespace Sys2Proof.Machine

/-! ### What executing them commits -/

theorem exec_addi (r1 r2 : RegIdx) (offset : Offset) (s : State) :
    exec (.addi r1 r2 offset) s = .next (s.commitReg r2 (s.readReg r1 + offset.signExtend 32)) := rfl

/-- The first register field plays no part. -/
theorem exec_lui (r1 r2 : RegIdx) (offset : Offset) (s : State) :
    exec (.lui r1 r2 offset) s = .next (s.commitReg r2 (upperHalf offset)) := rfl

/-- The shift keeps the extension's low half, which is the offset, above sixteen zeros. -/
theorem upperHalf_eq_append (offset : Offset) : upperHalf offset = offset ++ 0x0000#16 := by
  have hshift : upperHalf offset = (signExtend32 offset).extractLsb' 0 16 ++ 0#16 :=
    BitVec.shiftLeft_eq_concat_of_lt (by decide)
  have hlow : (signExtend32 offset).extractLsb' 0 16 = offset := by
    rw [signExtend32_eq_append]
    exact BitVec.extractLsb'_append_eq_right
  rw [hshift, hlow]

/-- Settles O35: the row fixes the opcode, so the opcode map answers addi; addi commits the sum. -/
theorem addiWritesSum : Obligations.AddiWritesSum :=
  ⟨fun _ hrow => decodeWord_addi_of_row hrow,
    fun r1 r2 offset s => exists_next_of_commitReg (exec_addi r1 r2 offset s)⟩

/-- Settles O38: the row fixes the opcode, so the opcode map answers lui; lui commits the shifted extension, which is
the offset above sixteen zeros. -/
theorem luiWritesUpperHalf : Obligations.LuiWritesUpperHalf := by
  refine ⟨fun _ hrow => decodeWord_lui_of_row hrow, fun r1 r2 offset s => ?_⟩
  obtain ⟨t, hnext, hbecomes, hpc⟩ := exists_next_of_commitReg (exec_lui r1 r2 offset s)
  rw [upperHalf_eq_append] at hbecomes
  exact ⟨t, hnext, hbecomes, (upperHalf_eq_append offset).symm, hpc⟩

end Sys2Proof.Machine
end

section
/-! The decoder undoes the encoder, and the encoder restores a decoded word up to the bits that no field holds
(30_encoding.md R62, R63, R71 to R74). -/

namespace Sys2Proof

/-! ### What a decoded word spells -/

/-- The rows of the opcode map and of the funct map, as a relation between a partitioned word and the instruction it
spells (30_encoding.md R71, R72); `spells_of_decodeFields` ties it to the decoder. -/
inductive Spells (f : Fields) : Instr → Prop where
  | add (hop : f.opcode = 0#6) (hfunct : f.funct = 32#6) : Spells f (.add f.r1 f.r2 f.r3)
  | sub (hop : f.opcode = 0#6) (hfunct : f.funct = 34#6) : Spells f (.sub f.r1 f.r2 f.r3)
  | and (hop : f.opcode = 0#6) (hfunct : f.funct = 36#6) : Spells f (.and f.r1 f.r2 f.r3)
  | or (hop : f.opcode = 0#6) (hfunct : f.funct = 37#6) : Spells f (.or f.r1 f.r2 f.r3)
  | slt (hop : f.opcode = 0#6) (hfunct : f.funct = 42#6) : Spells f (.slt f.r1 f.r2 f.r3)
  | sltu (hop : f.opcode = 0#6) (hfunct : f.funct = 43#6) : Spells f (.sltu f.r1 f.r2 f.r3)
  | j (hop : f.opcode = 2#6) : Spells f (.j f.target)
  | beq (hop : f.opcode = 4#6) : Spells f (.beq f.r1 f.r2 f.offset)
  | addi (hop : f.opcode = 8#6) : Spells f (.addi f.r1 f.r2 f.offset)
  | slti (hop : f.opcode = 10#6) : Spells f (.slti f.r1 f.r2 f.offset)
  | sltiu (hop : f.opcode = 11#6) : Spells f (.sltiu f.r1 f.r2 f.offset)
  | lui (hop : f.opcode = 15#6) : Spells f (.lui f.r1 f.r2 f.offset)
  | lw (hop : f.opcode = 35#6) : Spells f (.lw f.r1 f.r2 f.offset)
  | sw (hop : f.opcode = 43#6) : Spells f (.sw f.r1 f.r2 f.offset)

theorem spells_of_decodeRType {f : Fields} {i : Instr} (hop : f.opcode = 0#6) (h : decodeRType f = .ok i) :
    Spells f i := by
  unfold decodeRType at h
  split_ifs at h with h1 h2 h3 h4 h5 h6 <;> cases h
  · exact .add hop h1
  · exact .sub hop h2
  · exact .and hop h3
  · exact .or hop h4
  · exact .slt hop h5
  · exact .sltu hop h6

/-- The decoder's answers are the rows of the two maps. -/
theorem spells_of_decodeFields {f : Fields} {i : Instr} (h : decodeFields f = .ok i) : Spells f i := by
  unfold decodeFields at h
  split_ifs at h with h0 h2 h4 h8 h10 h11 h15 h35 h43
  · exact spells_of_decodeRType h0 h
  all_goals cases h
  · exact .j h2
  · exact .beq h4
  · exact .addi h8
  · exact .slti h10
  · exact .sltiu h11
  · exact .lui h15
  · exact .lw h35
  · exact .sw h43

/-! ### Decoding a packed word -/

/-- A packed R word under opcode 0 decodes to what the funct map makes of its function code, on the packed operands. -/
theorem decodeWord_packR {mk : RegIdx → RegIdx → RegIdx → Instr} {funct : Funct}
    (hmap : ∀ f : Fields, f.funct = funct → decodeRType f = .ok (mk f.r1 f.r2 f.r3)) (r1 r2 r3 : RegIdx) :
    decodeWord (packR 0#6 r1 r2 r3 funct) = .ok (mk r1 r2 r3) := by
  obtain ⟨hop, hr1, hr2, hr3, hfunct⟩ := partition_packR 0#6 r1 r2 r3 funct
  rw [decodeWord, decodeFields_of_opcode_zero hop, hmap _ hfunct, hr1, hr2, hr3]

/-- A packed I word decodes to what the opcode map makes of its opcode, on the packed operands. -/
theorem decodeWord_packI {mk : RegIdx → RegIdx → Offset → Instr} {op : Opcode}
    (hmap : ∀ f : Fields, f.opcode = op → decodeFields f = .ok (mk f.r1 f.r2 f.offset)) (r1 r2 : RegIdx)
    (offset : Offset) : decodeWord (packI op r1 r2 offset) = .ok (mk r1 r2 offset) := by
  obtain ⟨hop, hr1, hr2, hoffset⟩ := partition_packI op r1 r2 offset
  rw [decodeWord, hmap _ hop, hr1, hr2, hoffset]

theorem decodeWord_packJ (target : Target) : decodeWord (packJ 2#6 target) = .ok (.j target) := by
  obtain ⟨hop, htarget⟩ := partition_packJ 2#6 target
  rw [decodeWord, decodeFields_j hop, htarget]

theorem decodeWord_encode (i : Instr) : decodeWord (encode i) = .ok i := by
  cases i with
  | add r1 r2 r3 => exact decodeWord_packR (fun _ => decodeRType_add) r1 r2 r3
  | sub r1 r2 r3 => exact decodeWord_packR (fun _ => decodeRType_sub) r1 r2 r3
  | and r1 r2 r3 => exact decodeWord_packR (fun _ => decodeRType_and) r1 r2 r3
  | or r1 r2 r3 => exact decodeWord_packR (fun _ => decodeRType_or) r1 r2 r3
  | slt r1 r2 r3 => exact decodeWord_packR (fun _ => decodeRType_slt) r1 r2 r3
  | sltu r1 r2 r3 => exact decodeWord_packR (fun _ => decodeRType_sltu) r1 r2 r3
  | j target => exact decodeWord_packJ target
  | beq r1 r2 offset => exact decodeWord_packI (fun _ => decodeFields_beq) r1 r2 offset
  | addi r1 r2 offset => exact decodeWord_packI (fun _ => decodeFields_addi) r1 r2 offset
  | slti r1 r2 offset => exact decodeWord_packI (fun _ => decodeFields_slti) r1 r2 offset
  | sltiu r1 r2 offset => exact decodeWord_packI (fun _ => decodeFields_sltiu) r1 r2 offset
  | lui r1 r2 offset => exact decodeWord_packI (fun _ => decodeFields_lui) r1 r2 offset
  | lw r1 r2 offset => exact decodeWord_packI (fun _ => decodeFields_lw) r1 r2 offset
  | sw r1 r2 offset => exact decodeWord_packI (fun _ => decodeFields_sw) r1 r2 offset

/-- Settles O3: per instruction, its view's packing is undone by the partition and its map row gives it back. -/
theorem decodeEncodeAgree : Obligations.DecodeEncodeAgree := decodeWord_encode

/-- Settles O5: each word is the encoding of the instruction beside it. -/
theorem exampleWordsDecode : Obligations.ExampleWordsDecode :=
  ⟨decodeWord_encode (.add 1 2 3), decodeWord_encode (.sub 1 2 3), decodeWord_encode (.and 1 2 3),
    decodeWord_encode (.or 1 2 3), decodeWord_encode (.slt 1 2 3), decodeWord_encode (.sltu 1 2 3),
    decodeWord_encode (.j 0x1000), decodeWord_encode (.beq 1 2 2), decodeWord_encode (.addi 5 6 3),
    decodeWord_encode (.slti 1 2 0xFFFF), decodeWord_encode (.sltiu 1 2 0xFFFF), decodeWord_encode (.lui 7 2 0x1234),
    decodeWord_encode (.lw 1 2 8), decodeWord_encode (.sw 1 2 8)⟩

/-! ### Packing a partitioned word -/

/-- The R view holds every bit of a word but bits 10–6. -/
theorem packR_partition (w : Word) : packR (partition w).opcode (partition w).r1 (partition w).r2 (partition w).r3
    (partition w).funct = w &&& 0xFFFFF83F#32 := by
  apply BitVec.eq_of_getLsbD_eq
  intro k hk
  simp only [packR, partition, BitVec.getLsbD_and, BitVec.getLsbD_append, BitVec.getLsbD_extractLsb']
  interval_cases k <;> simp

/-- The I view holds every bit of a word. -/
theorem packI_partition (w : Word) :
    packI (partition w).opcode (partition w).r1 (partition w).r2 (partition w).offset = w := by
  apply BitVec.eq_of_toNat_eq
  rw [packI_toNat, partition_opcode_toNat, partition_r1_toNat, partition_r2_toNat, partition_offset_toNat]
  omega

/-- The J view holds every bit of a word. -/
theorem packJ_partition (w : Word) : packJ (partition w).opcode (partition w).target = w := by
  apply BitVec.eq_of_toNat_eq
  rw [packJ_toNat, partition_opcode_toNat, partition_target_toNat]
  omega

/-- The encoding of what a word spells: its R view under opcode 0, the word itself otherwise. -/
theorem encode_of_spells {w : Word} {i : Instr} (h : Spells (partition w) i) :
    encode i = if (partition w).opcode = 0#6 then w &&& 0xFFFFF83F#32 else w := by
  have hR := packR_partition w
  have hI := packI_partition w
  have hJ := packJ_partition w
  cases h with
  | add hop hfunct | sub hop hfunct | and hop hfunct | or hop hfunct | slt hop hfunct | sltu hop hfunct =>
    rw [hop, hfunct] at hR
    exact hR.trans (if_pos hop).symm
  | j hop =>
    rw [hop] at hJ
    simpa [encode, hop] using hJ
  | beq hop | addi hop | slti hop | sltiu hop | lui hop | lw hop | sw hop =>
    rw [hop] at hI
    simpa [encode, hop] using hI

/-- Settles O4: the decoded instruction is what the word spells, so encoding it packs the word's own fields. -/
theorem encodeRestoresWord : Obligations.EncodeRestoresWord := fun _ _ h =>
  encode_of_spells (spells_of_decodeFields h)

/-! ### The ignored bits (R74) -/

theorem extractLsb'_and_of_allOnes {w mask : Word} {start len : Nat}
    (hmask : mask.extractLsb' start len = BitVec.allOnes len) :
    (w &&& mask).extractLsb' start len = w.extractLsb' start len := by
  rw [BitVec.extractLsb'_and, hmask, BitVec.and_allOnes]

/-- The funct map reads only the three register fields and the function code. -/
theorem decodeRType_congr {f g : Fields} (hr1 : f.r1 = g.r1) (hr2 : f.r2 = g.r2) (hr3 : f.r3 = g.r3)
    (hfunct : f.funct = g.funct) : decodeRType f = decodeRType g := by
  unfold decodeRType
  rw [hr1, hr2, hr3, hfunct]

/-- Clearing bits 10–6 of a register-type word does not change what it decodes to. -/
theorem decodeWord_clear_ignored {w : Word} (hop : (partition w).opcode = 0#6) :
    decodeWord (w &&& 0xFFFFF83F#32) = decodeWord w := by
  have hop' : (partition (w &&& 0xFFFFF83F#32)).opcode = 0#6 := (extractLsb'_and_of_allOnes rfl).trans hop
  rw [decodeWord, decodeWord, decodeFields_of_opcode_zero hop, decodeFields_of_opcode_zero hop']
  exact decodeRType_congr (extractLsb'_and_of_allOnes rfl) (extractLsb'_and_of_allOnes rfl)
    (extractLsb'_and_of_allOnes rfl) (extractLsb'_and_of_allOnes rfl)

/-- Words that agree but for bits 10–6 have the same opcode. -/
theorem partition_opcode_eq_of_clear_ignored {w w' : Word} (h : w &&& 0xFFFFF83F#32 = w' &&& 0xFFFFF83F#32) :
    (partition w').opcode = (partition w).opcode :=
  (partition_opcode_of_row h.symm rfl).trans (partition_opcode_of_row rfl rfl).symm

/-- Settles O8: both words decode as the word with the ignored bits cleared; lui's meaning does not mention r1. -/
theorem ignoredBitsHaveNoEffect : Obligations.IgnoredBitsHaveNoEffect := by
  refine ⟨fun w w' hop hclear => ?_, fun r1 r1' r2 offset s =>
    (Machine.exec_lui r1 r2 offset s).trans (Machine.exec_lui r1' r2 offset s).symm⟩
  have hop' : (partition w').opcode = 0#6 := (partition_opcode_eq_of_clear_ignored hclear).trans hop
  rw [← decodeWord_clear_ignored hop, ← decodeWord_clear_ignored hop', hclear]

end Sys2Proof
end

section
/-! Canonical memory: what a word's write leaves unchanged, and that a canonical memory is fixed by what its bytes read as
(10_state.md R28; 20_memory.md R40; log entry 3). -/

namespace Sys2Proof.Machine

/-! ### A word's write -/

theorem readByte_writeWord_outside {m : Memory} (h : Memory.wf m = true) {a : Nat} (ha : a + 3 < Config.memBytes)
    (v : Word) {k : Nat} (hk : k < a ∨ a + 4 ≤ k) :
    Memory.readByte (Memory.writeWord m a v) k = Memory.readByte m k := by
  rw [readByte_writeWord h ha, if_neg (by omega), if_neg (by omega), if_neg (by omega), if_neg (by omega)]

/-- Two aligned words do not overlap, so a write of one leaves the other. -/
theorem readWord_writeWord_other {m : Memory} (h : Memory.wf m = true) {a b : Nat} (ha : a + 3 < Config.memBytes)
    (v : Word) (haligned : a % 4 = 0) (hb : b % 4 = 0) (hne : b ≠ a) :
    Memory.readWord (Memory.writeWord m a v) b = Memory.readWord m b :=
  readWord_congr fun _ _ _ => readByte_writeWord_outside h ha v (by omega)

/-- Settles O20: the word written, the words beside it, and the form kept. -/
theorem memoryReadAfterWrite : Obligations.MemoryReadAfterWrite := by
  intro m a v hwf hlt haligned
  have ha : a + 3 < Config.memBytes := by unfold Config.memBytes; omega
  exact ⟨readWord_writeWord_same hwf ha v, fun b hb hne => readWord_writeWord_other hwf ha v haligned hb hne,
    writeWord_wf hwf ha v⟩

/-! ### Memories that read alike -/

theorem wfFrom_cons_iff (lo a : Nat) (b : Byte) (m : Memory) : Memory.wfFrom lo ((a, b) :: m) = true ↔
    lo ≤ a ∧ a < Config.memBytes ∧ b ≠ unlistedByte ∧ Memory.wfFrom (a + 1) m = true := by
  simp [Memory.wfFrom, and_assoc]

theorem readByte_cons_same (a : Nat) (b : Byte) (m : Memory) : Memory.readByte ((a, b) :: m) a = b := if_pos rfl

theorem readByte_cons_of_ne {a k : Nat} (h : a ≠ k) (b : Byte) (m : Memory) :
    Memory.readByte ((a, b) :: m) k = Memory.readByte m k := if_neg h

/-- A byte that reads otherwise than an unlisted one has a cell, hence an address within the form's bounds. -/
theorem le_of_readByte_ne {lo k : Nat} {m : Memory} (h : Memory.wfFrom lo m = true)
    (hne : Memory.readByte m k ≠ unlistedByte) : lo ≤ k :=
  Nat.le_of_not_lt fun hlt => hne (readByte_below h hlt)

/-- The lowest cell of a memory is a cell of any memory that reads alike, so its address is no lower than the other's
lowest cell. -/
theorem head_le_of_readByte_eq {a a' : Nat} {b b' : Byte} {m m' : Memory} (hb : b ≠ unlistedByte)
    (hm' : Memory.wfFrom (a' + 1) m' = true)
    (hsame : ∀ k, Memory.readByte ((a, b) :: m) k = Memory.readByte ((a', b') :: m') k) : a' ≤ a := by
  by_contra hlt
  have hne : a' ≠ a := by omega
  have hread : Memory.readByte m' a = b := by
    rw [← readByte_cons_of_ne hne b' m', ← hsame a, readByte_cons_same]
  have hle : a' + 1 ≤ a := le_of_readByte_ne hm' (hread.symm ▸ hb)
  omega

/-- Tails of memories that read alike and begin with the same cell read alike: at the cell's own address neither tail
has a cell. -/
theorem readByte_tail_eq {a : Nat} {b : Byte} {m m' : Memory} (hm : Memory.wfFrom (a + 1) m = true)
    (hm' : Memory.wfFrom (a + 1) m' = true)
    (hsame : ∀ k, Memory.readByte ((a, b) :: m) k = Memory.readByte ((a, b) :: m') k) (k : Nat) :
    Memory.readByte m k = Memory.readByte m' k := by
  by_cases hk : a = k
  · rw [readByte_below hm (by omega), readByte_below hm' (by omega)]
  · rw [← readByte_cons_of_ne hk b m, hsame k, readByte_cons_of_ne hk]

/-- A memory with a cell does not read as one without any. -/
theorem not_readByte_cons_eq_nil {a : Nat} {b : Byte} {m : Memory} (hb : b ≠ unlistedByte) :
    ¬ ∀ k, Memory.readByte ((a, b) :: m) k = Memory.readByte [] k := fun hsame =>
  hb ((readByte_cons_same a b m).symm.trans (hsame a))

theorem eq_of_readByte_eq {m m' : Memory} {lo lo' : Nat} (h : Memory.wfFrom lo m = true)
    (h' : Memory.wfFrom lo' m' = true) (hsame : ∀ k, Memory.readByte m k = Memory.readByte m' k) : m = m' := by
  induction m generalizing m' lo lo' with
  | nil =>
    cases m' with
    | nil => rfl
    | cons c' m' =>
      obtain ⟨-, -, hb', -⟩ := (wfFrom_cons_iff ..).mp h'
      exact absurd (fun k => (hsame k).symm) (not_readByte_cons_eq_nil hb')
  | cons c m ih =>
    obtain ⟨a, b⟩ := c
    obtain ⟨-, -, hb, hm⟩ := (wfFrom_cons_iff ..).mp h
    cases m' with
    | nil => exact absurd hsame (not_readByte_cons_eq_nil hb)
    | cons c' m' =>
      obtain ⟨a', b'⟩ := c'
      obtain ⟨-, -, hb', hm'⟩ := (wfFrom_cons_iff ..).mp h'
      obtain rfl : a = a' := Nat.le_antisymm (head_le_of_readByte_eq hb' hm fun k => (hsame k).symm)
        (head_le_of_readByte_eq hb hm' hsame)
      obtain rfl : b = b' := by simpa only [readByte_cons_same] using hsame a
      rw [ih hm hm' (readByte_tail_eq hm hm' hsame)]

/-- Settles O21: by induction on the cells, the lowest cells being the same. -/
theorem memoryIsExtensional : Obligations.MemoryIsExtensional := fun _ _ => eq_of_readByte_eq

end Sys2Proof.Machine
end

section
/-! What one step can do: every meaning commits one register write, or changes pc alone, or stores one word, or faults
on the data check. The claims about every step follow from this case analysis (40_datapath.md R100, R102, R132). -/

namespace Sys2Proof.Machine

/-! ### The computed targets are aligned where pc is (R132) -/

theorem add_four_aligned {pc : Word} (h : pc.toNat % 4 = 0) : (pc + 4#32).toNat % 4 = 0 := by
  rw [BitVec.toNat_add, BitVec.toNat_ofNat]
  omega

theorem shiftLeft_two_aligned (x : Word) : (x <<< 2).toNat % 4 = 0 := by
  rw [BitVec.toNat_shiftLeft, Nat.shiftLeft_eq]
  omega

theorem branchTarget_aligned {pc : Word} (h : pc.toNat % 4 = 0) (offset : Offset) :
    (branchTarget pc offset).toNat % 4 = 0 := by
  have hnext := add_four_aligned h
  have hshift := shiftLeft_two_aligned (signExtend32 offset)
  rw [branchTarget, BitVec.toNat_add]
  omega

/-- The kept top bits and the shifted target both have their two low bits zero, whatever pc is. -/
theorem jumpTarget_aligned (pc : Word) (target : Target) : (jumpTarget pc target).toNat % 4 = 0 := by
  have hshift := shiftLeft_two_aligned (target.zeroExtend 32)
  have htop : (pc &&& 0xF0000000#32).toNat % 2 ^ 2 = 0 := by
    rw [BitVec.toNat_and, Nat.and_mod_two_pow]
    exact Nat.and_zero _
  have hor : (jumpTarget pc target).toNat % 2 ^ 2 = 0 := by
    rw [jumpTarget, BitVec.toNat_or, Nat.or_mod_two_pow, htop]
    exact (Nat.zero_or _).trans hshift
  exact hor

/-! ### What executing an instruction can do -/

theorem exec_beq (r1 r2 : RegIdx) (offset : Offset) (s : State) : exec (.beq r1 r2 offset) s =
    .next (s.setPc (if s.readReg r1 = s.readReg r2 then branchTarget s.pc offset else s.pc + 4#32)) :=
  execBeq_eq r1 r2 offset s

theorem exec_j (target : Target) (s : State) : exec (.j target) s = .next (s.setPc (jumpTarget s.pc target)) := rfl

theorem exec_lw_next_iff (r1 r2 : RegIdx) (offset : Offset) (s t : State) : exec (.lw r1 r2 offset) s = .next t ↔
    Accessible (effectiveAddress s r1 offset) ∧
    t = s.commitReg r2 (Memory.readWord s.mem (effectiveAddress s r1 offset).toNat) :=
  execLw_next_iff r1 r2 offset s t

theorem exec_sw_next_iff (r1 r2 : RegIdx) (offset : Offset) (s t : State) : exec (.sw r1 r2 offset) s = .next t ↔
    Accessible (effectiveAddress s r1 offset) ∧
    t = (s.writeMem (effectiveAddress s r1 offset).toNat (storeData s r1 r2)).advance :=
  execSw_next_iff r1 r2 offset s t

/-- The outcomes that executing an instruction at a state can have; `exec_outcome` says that there is no other. -/
inductive ExecOutcome (i : Instr) (s : State) : Result → Prop where
  /-- One register write, then pc + 4. -/
  | commits (d : RegIdx) (v : Word) : ExecOutcome i s (.next (s.commitReg d v))
  /-- A new pc alone, aligned where pc was. -/
  | redirects (p : Word) (haligned : s.pc.toNat % 4 = 0 → p.toNat % 4 = 0) : ExecOutcome i s (.next (s.setPc p))
  /-- sw on an accessible address. -/
  | stores (r1 r2 : RegIdx) (offset : Offset) (hi : i = .sw r1 r2 offset)
      (hacc : Accessible (effectiveAddress s r1 offset)) :
      ExecOutcome i s (.next (s.writeMem (effectiveAddress s r1 offset).toNat (storeData s r1 r2)).advance)
  /-- lw or sw whose address fails the data check. -/
  | faults (r1 r2 : RegIdx) (offset : Offset) (f : Fault) (hi : i = .lw r1 r2 offset ∨ i = .sw r1 r2 offset)
      (hcheck : checkData (effectiveAddress s r1 offset) = some f) : ExecOutcome i s (.fault f)

theorem exec_lw_outcome (r1 r2 : RegIdx) (offset : Offset) (s : State) :
    ExecOutcome (.lw r1 r2 offset) s (exec (.lw r1 r2 offset) s) := by
  cases hcheck : checkData (effectiveAddress s r1 offset) with
  | none =>
    rw [(exec_lw_next_iff r1 r2 offset s _).mpr ⟨(checkData_none_iff _).mp hcheck, rfl⟩]
    exact .commits r2 _
  | some f =>
    have hfault : exec (.lw r1 r2 offset) s = .fault f := (execLw_fault_iff r1 r2 offset s f).mpr hcheck
    rw [hfault]
    exact .faults r1 r2 offset f (.inl rfl) hcheck

theorem exec_sw_outcome (r1 r2 : RegIdx) (offset : Offset) (s : State) :
    ExecOutcome (.sw r1 r2 offset) s (exec (.sw r1 r2 offset) s) := by
  cases hcheck : checkData (effectiveAddress s r1 offset) with
  | none =>
    have hacc := (checkData_none_iff _).mp hcheck
    rw [(exec_sw_next_iff r1 r2 offset s _).mpr ⟨hacc, rfl⟩]
    exact .stores r1 r2 offset rfl hacc
  | some f =>
    have hfault : exec (.sw r1 r2 offset) s = .fault f := (execSw_fault_iff r1 r2 offset s f).mpr hcheck
    rw [hfault]
    exact .faults r1 r2 offset f (.inr rfl) hcheck

theorem exec_beq_outcome (r1 r2 : RegIdx) (offset : Offset) (s : State) :
    ExecOutcome (.beq r1 r2 offset) s (exec (.beq r1 r2 offset) s) := by
  rw [exec_beq]
  refine .redirects _ fun hpc => ?_
  split
  · exact branchTarget_aligned hpc offset
  · exact add_four_aligned hpc

/-- Every meaning has one of the four outcomes. -/
theorem exec_outcome (i : Instr) (s : State) : ExecOutcome i s (exec i s) := by
  cases i with
  | add _ _ d | sub _ _ d | and _ _ d | or _ _ d | slt _ _ d | sltu _ _ d => exact .commits d _
  | addi _ d _ | slti _ d _ | sltiu _ d _ | lui _ d _ => exact .commits d _
  | j target => exact .redirects _ fun _ => jumpTarget_aligned s.pc target
  | beq r1 r2 offset => exact exec_beq_outcome r1 r2 offset s
  | lw r1 r2 offset => exact exec_lw_outcome r1 r2 offset s
  | sw r1 r2 offset => exact exec_sw_outcome r1 r2 offset s

theorem exec_next_outcome {i : Instr} {s t : State} (h : exec i s = .next t) : ExecOutcome i s (.next t) :=
  h ▸ exec_outcome i s

/-! ### What every completed step keeps -/

theorem exec_keeps_wf {i : Instr} {s t : State} (hwf : Memory.wf s.mem = true) (h : exec i s = .next t) :
    Memory.wf t.mem = true := by
  cases exec_next_outcome h with
  | commits d v => rwa [commitReg_mem]
  | redirects p _ => rwa [setPc_mem]
  | stores r1 r2 offset _ hacc => exact writeWord_wf hwf hacc.lastByte_lt _

theorem exec_keeps_alignment {i : Instr} {s t : State} (hpc : s.pc.toNat % 4 = 0) (h : exec i s = .next t) :
    t.pc.toNat % 4 = 0 := by
  cases exec_next_outcome h with
  | commits d v => rw [commitReg_pc]; exact add_four_aligned hpc
  | redirects p haligned => exact haligned hpc
  | stores r1 r2 offset _ _ => exact add_four_aligned hpc

theorem exec_keeps_params {i : Instr} {s t : State} (h : exec i s = .next t) : t.params = s.params := by
  cases exec_next_outcome h with
  | commits d v => exact commitReg_params s d v
  | redirects p _ => rfl
  | stores r1 r2 offset _ _ => rfl

/-- A completed step started at an aligned pc, since its fetch succeeded; its instruction keeps the alignment. -/
theorem step_next_pc_aligned {s t : State} (h : step s = .next t) : t.pc.toNat % 4 = 0 := by
  obtain ⟨w, i, hfetch, -, hexec⟩ := step_next_cases h
  obtain ⟨⟨-, hpc⟩, -⟩ := (fetch_ok_iff s w).mp hfetch
  exact exec_keeps_alignment hpc hexec

/-- Settles O24: memory is kept canonical by the executed instruction, and pc is aligned after any step. -/
theorem stepKeepsInv : Obligations.StepKeepsInv := by
  rintro s t ⟨hwf, -⟩ h
  obtain ⟨-, i, -, -, hexec⟩ := step_next_cases h
  exact ⟨exec_keeps_wf hwf hexec, step_next_pc_aligned h⟩

/-- Settles O25: see `step_next_pc_aligned`. -/
theorem nextPcIsAligned : Obligations.NextPcIsAligned := fun _ _ => step_next_pc_aligned

/-- Settles O26: the executed instruction keeps the parameters. -/
theorem stepKeepsParams : Obligations.StepKeepsParams := by
  intro s t h
  obtain ⟨-, i, -, -, hexec⟩ := step_next_cases h
  exact exec_keeps_params hexec

end Sys2Proof.Machine
end

section
/-! The comparisons, lw, sw, beq and j: which words spell them and what each commits (30_encoding.md R62, R71, R72;
41_register_type.md R142, R145, R146; 42_immediate.md R162, R163; 43_load_store.md; 44_control_transfer.md). -/

namespace Sys2Proof

/-! ### Words of their rows -/

theorem decodeWord_sub_of_row {w : Word} (hrow : w &&& 0xFC00003F#32 = 0x00000022#32) :
    decodeWord w = .ok (.sub (partition w).r1 (partition w).r2 (partition w).r3) := by
  obtain ⟨hdecode, hfunct⟩ := decodeWord_of_registerRow hrow rfl
  exact hdecode.trans (decodeRType_sub hfunct)

theorem decodeWord_slt_of_row {w : Word} (hrow : w &&& 0xFC00003F#32 = 0x0000002A#32) :
    decodeWord w = .ok (.slt (partition w).r1 (partition w).r2 (partition w).r3) := by
  obtain ⟨hdecode, hfunct⟩ := decodeWord_of_registerRow hrow rfl
  exact hdecode.trans (decodeRType_slt hfunct)

theorem decodeWord_sltu_of_row {w : Word} (hrow : w &&& 0xFC00003F#32 = 0x0000002B#32) :
    decodeWord w = .ok (.sltu (partition w).r1 (partition w).r2 (partition w).r3) := by
  obtain ⟨hdecode, hfunct⟩ := decodeWord_of_registerRow hrow rfl
  exact hdecode.trans (decodeRType_sltu hfunct)

/-- The other masks cover the opcode alone, so a word of such a row has the row's opcode. -/
theorem partition_opcode_of_opcodeRow {w row : Word} (hrow : w &&& 0xFC000000#32 = row) :
    (partition w).opcode = (partition row).opcode := partition_opcode_of_row hrow rfl

end Sys2Proof

namespace Sys2Proof.Machine

/-! ### SetLessThan under both values of SLT_INVERTED -/

theorem ltSigned_of_inverted (r0 : Bool) (f : StoreDataField) (a b : Word) :
    ltSigned ⟨r0, true, f⟩ a b = a.ult b := rfl

theorem ltSigned_of_not_inverted (r0 : Bool) (f : StoreDataField) (a b : Word) :
    ltSigned ⟨r0, false, f⟩ a b = a.slt b := rfl

/-- The signed and the unsigned comparison disagree exactly when one operand has its sign bit set and the other not. -/
theorem ult_ne_slt_iff (a b : Word) : a.ult b ≠ a.slt b ↔ a.getLsbD 31 ≠ b.getLsbD 31 := by
  have ha : a.getLsbD 31 = a.msb := a.msb_eq_getLsbD_last.symm
  have hb : b.getLsbD 31 = b.msb := b.msb_eq_getLsbD_last.symm
  rw [ha, hb, BitVec.slt_eq_ult]
  cases a.msb <;> cases b.msb <;> simp

/-- Settles O15: SLT_INVERTED exchanges the two comparisons of the words, which disagree on differing sign bits. -/
theorem sltInversionMatters : Obligations.SltInversionMatters := by
  refine fun r0 f a b => ⟨?_, rfl, rfl⟩
  rw [ltSigned_of_inverted, ltSigned_of_not_inverted]
  exact ult_ne_slt_iff a b

/-! ### What executing the comparisons and sub commits -/

theorem exec_sub (r1 r2 r3 : RegIdx) (s : State) :
    exec (.sub r1 r2 r3) s = .next (s.commitReg r3 (s.readReg r1 - s.readReg r2)) := rfl

theorem exec_slt (r1 r2 r3 : RegIdx) (s : State) : exec (.slt r1 r2 r3) s =
    .next (s.commitReg r3 (flagWord (ltSigned s.params (s.readReg r1) (s.readReg r2)))) := rfl

theorem exec_sltu (r1 r2 r3 : RegIdx) (s : State) : exec (.sltu r1 r2 r3) s =
    .next (s.commitReg r3 (flagWord (ltUnsigned s.params (s.readReg r1) (s.readReg r2)))) := rfl

theorem exec_slti (r1 r2 : RegIdx) (offset : Offset) (s : State) : exec (.slti r1 r2 offset) s =
    .next (s.commitReg r2 (flagWord (ltSigned s.params (s.readReg r1) (offset.signExtend 32)))) := rfl

theorem exec_sltiu (r1 r2 : RegIdx) (offset : Offset) (s : State) : exec (.sltiu r1 r2 offset) s =
    .next (s.commitReg r2 (flagWord (ltUnsigned s.params (s.readReg r1) (offset.signExtend 32)))) := rfl

/-- An instruction that commits the flag word of a comparison completes, with x[d] <- 1 where the comparison holds and
x[d] <- 0 where it does not (or the write discarded), and pc <- pc + 4. -/
theorem exists_next_of_commitFlag {r : Result} {s : State} {d : RegIdx} {b : Bool} {P : Prop}
    (h : r = .next (s.commitReg d (flagWord b))) (hb : b = true ↔ P) :
    ∃ t, r = .next t ∧ (P → RegisterBecomes d 1#32 s t) ∧ (¬ P → RegisterBecomes d 0#32 s t) ∧
      t.pc = s.pc + 4#32 := by
  obtain ⟨t, hnext, hbecomes, hpc⟩ := exists_next_of_commitReg h
  refine ⟨t, hnext, fun hP => ?_, fun hP => ?_, hpc⟩
  · rwa [flagWord_of_true (hb.mpr hP)] at hbecomes
  · rwa [flagWord_of_not_true (mt hb.mp hP)] at hbecomes

/-- Settles O30: the row fixes opcode and funct, so the funct map answers sub; sub commits the difference. -/
theorem subWritesDifference : Obligations.SubWritesDifference :=
  ⟨fun _ hrow => decodeWord_sub_of_row hrow, fun r1 r2 r3 s => exists_next_of_commitReg (exec_sub r1 r2 r3 s)⟩

/-- Settles O33: the funct map answers slt; slt commits the flag of SetLessThan(signed). -/
theorem sltWritesComparison : Obligations.SltWritesComparison :=
  ⟨fun _ hrow => decodeWord_slt_of_row hrow,
    fun r1 r2 r3 s => exists_next_of_commitFlag (exec_slt r1 r2 r3 s) (ltSigned_iff ..)⟩

/-- Settles O34: the funct map answers sltu; sltu commits the flag of SetLessThan(unsigned). -/
theorem sltuWritesComparison : Obligations.SltuWritesComparison :=
  ⟨fun _ hrow => decodeWord_sltu_of_row hrow,
    fun r1 r2 r3 s => exists_next_of_commitFlag (exec_sltu r1 r2 r3 s) (ltUnsigned_iff ..)⟩

/-- Settles O36: the opcode map answers slti; slti commits the flag of SetLessThan(signed) on the extended offset. -/
theorem sltiWritesComparison : Obligations.SltiWritesComparison :=
  ⟨fun _ hrow => decodeFields_slti (partition_opcode_of_opcodeRow hrow),
    fun r1 r2 offset s => exists_next_of_commitFlag (exec_slti r1 r2 offset s) (ltSigned_iff ..)⟩

/-- Settles O37: the opcode map answers sltiu; sltiu commits the flag of SetLessThan(unsigned) on the extended
offset. -/
theorem sltiuWritesComparison : Obligations.SltiuWritesComparison :=
  ⟨fun _ hrow => decodeFields_sltiu (partition_opcode_of_opcodeRow hrow),
    fun r1 r2 offset s => exists_next_of_commitFlag (exec_sltiu r1 r2 offset s) (ltUnsigned_iff ..)⟩

/-! ### lw and sw -/

/-- Settles O39: the opcode map answers lw; on an accessible address lw commits the word there. -/
theorem lwLoadsWord : Obligations.LwLoadsWord :=
  ⟨fun _ hrow => decodeFields_lw (partition_opcode_of_opcodeRow hrow), fun r1 r2 offset s hacc =>
    exists_next_of_commitReg ((exec_lw_next_iff r1 r2 offset s _).mpr ⟨hacc, rfl⟩)⟩

/-- The word a completed sw stored is at its effective address afterwards. -/
theorem readWord_of_exec_sw {r1 r2 : RegIdx} {offset : Offset} {s t : State} (hwf : Memory.wf s.mem = true)
    (h : exec (.sw r1 r2 offset) s = .next t) :
    Memory.readWord t.mem (effectiveAddress s r1 offset).toNat = storeData s r1 r2 := by
  obtain ⟨hacc, rfl⟩ := (exec_sw_next_iff r1 r2 offset s t).mp h
  exact readWord_writeWord_same hwf hacc.lastByte_lt _

theorem storeData_eq_ite (s : State) (r1 r2 : RegIdx) :
    storeData s r1 r2 = if s.params.storeDataField = .r1 then s.readReg r1 else s.readReg r2 := by
  unfold storeData
  cases s.params.storeDataField <;> rfl

/-- Settles O40: the opcode map answers sw; on an accessible address sw completes, and the word it stored reads back. -/
theorem swStoresWord : Obligations.SwStoresWord := by
  refine ⟨fun _ hrow => decodeFields_sw (partition_opcode_of_opcodeRow hrow), fun r1 r2 offset s hwf hacc => ?_⟩
  have hnext := (exec_sw_next_iff r1 r2 offset s _).mpr ⟨hacc, rfl⟩
  exact ⟨_, hnext, (readWord_of_exec_sw hwf hnext).trans (storeData_eq_ite s r1 r2), rfl⟩

/-! ### beq and j -/

/-- Settles O41: the opcode map answers beq; beq changes pc alone, by the comparison of the two registers. -/
theorem beqBranchesOnEqual : Obligations.BeqBranchesOnEqual :=
  ⟨fun _ hrow => decodeFields_beq (partition_opcode_of_opcodeRow hrow),
    fun r1 r2 offset s => ⟨_, exec_beq r1 r2 offset s, rfl⟩⟩

/-- Settles O42: the opcode map answers j; j changes pc alone, to the jump target. -/
theorem jumpSetsTarget : Obligations.JumpSetsTarget :=
  ⟨fun _ hrow => decodeFields_j (partition_opcode_of_opcodeRow hrow), fun target s => ⟨_, exec_j target s, rfl⟩⟩

end Sys2Proof.Machine
end

section
/-! Frames: what each instruction leaves unchanged (the opening sections of 41_register_type.md to
44_control_transfer.md; 10_state.md section 2). -/

namespace Sys2Proof.Machine

/-! ### The three kinds of commit -/

theorem commitReg_sameRegs_of_discarded {s : State} {d : RegIdx} (h : Discarded s d) (v : Word) :
    SameRegs s (s.commitReg d v) := by
  intro i
  rw [State.commitReg, writeReg_of_discarded h, advance_slot]

/-- A meaning that commits one register write leaves every other register, that register too where the write is
discarded, all of memory and the parameters. -/
theorem frame_of_commitReg {r : Result} {s t : State} {d : RegIdx} {v : Word} (hcommit : r = .next (s.commitReg d v))
    (h : r = .next t) :
    SameRegsExcept d s t ∧ (Discarded s d → SameRegs s t) ∧ SameMemory s t ∧ t.params = s.params := by
  obtain rfl : s.commitReg d v = t := Host.Outcome.next.inj (hcommit.symm.trans h)
  obtain ⟨-, hothers⟩ := commitReg_writes s d v
  exact ⟨hothers, fun hd => commitReg_sameRegs_of_discarded hd v, commitReg_readByte s d v, commitReg_params s d v⟩

/-- A meaning that changes pc alone leaves every register, all of memory and the parameters. -/
theorem frame_of_setPc {r : Result} {s t : State} {p : Word} (hset : r = .next (s.setPc p)) (h : r = .next t) :
    SameRegs s t ∧ SameMemory s t ∧ t.params = s.params := by
  obtain rfl : s.setPc p = t := Host.Outcome.next.inj (hset.symm.trans h)
  exact ⟨setPc_slot s p, setPc_readByte s p, setPc_params s p⟩

/-- A store of one accessible word of canonical memory leaves every byte outside it. -/
theorem writeMem_sameMemoryOutside {s : State} (hwf : Memory.wf s.mem = true) {addr : Word} (hacc : Accessible addr)
    (v : Word) : SameMemoryOutside addr.toNat s (s.writeMem addr.toNat v).advance :=
  fun _ hk => readByte_writeWord_outside hwf hacc.lastByte_lt v hk

/-! ### The families -/

/-- Settles O43: each of the six commits one write, to r3. -/
theorem registerTypeFrame : Obligations.RegisterTypeFrame := by
  intro i r1 r2 r3 s t hi h
  simp only [List.mem_cons, List.not_mem_nil, or_false] at hi
  obtain rfl | rfl | rfl | rfl | rfl | rfl := hi
  · exact frame_of_commitReg (exec_add r1 r2 r3 s) h
  · exact frame_of_commitReg (exec_sub r1 r2 r3 s) h
  · exact frame_of_commitReg (exec_and r1 r2 r3 s) h
  · exact frame_of_commitReg (exec_or r1 r2 r3 s) h
  · exact frame_of_commitReg (exec_slt r1 r2 r3 s) h
  · exact frame_of_commitReg (exec_sltu r1 r2 r3 s) h

/-- Settles O44: each of the four commits one write, to r2. -/
theorem immediateFrame : Obligations.ImmediateFrame := by
  intro i r1 r2 offset s t hi h
  simp only [List.mem_cons, List.not_mem_nil, or_false] at hi
  obtain rfl | rfl | rfl | rfl := hi
  · exact frame_of_commitReg (exec_addi r1 r2 offset s) h
  · exact frame_of_commitReg (exec_slti r1 r2 offset s) h
  · exact frame_of_commitReg (exec_sltiu r1 r2 offset s) h
  · exact frame_of_commitReg (exec_lui r1 r2 offset s) h

/-- Settles O45: a completed lw commits one write, to r2. -/
theorem loadFrame : Obligations.LoadFrame := by
  intro r1 r2 offset s t h
  obtain ⟨hacc, -⟩ := (exec_lw_next_iff r1 r2 offset s t).mp h
  exact frame_of_commitReg ((exec_lw_next_iff r1 r2 offset s _).mpr ⟨hacc, rfl⟩) h

/-- Settles O46: a completed sw stores one word, at its effective address. -/
theorem storeFrame : Obligations.StoreFrame := by
  intro r1 r2 offset s t hwf h
  obtain ⟨hacc, rfl⟩ := (exec_sw_next_iff r1 r2 offset s t).mp h
  exact ⟨fun _ => rfl, rfl, writeMem_sameMemoryOutside hwf hacc _⟩

/-- Settles O47: beq and j change pc alone. -/
theorem controlTransferFrame : Obligations.ControlTransferFrame := by
  intro i r1 r2 offset target s t hi h
  simp only [List.mem_cons, List.not_mem_nil, or_false] at hi
  obtain rfl | rfl := hi
  · exact frame_of_setPc (exec_beq r1 r2 offset s) h
  · exact frame_of_setPc (exec_j target s) h

/-- Settles O55: only the outcome of a sw changes memory, and that one as `storeFrame` says. -/
theorem onlyStoreWordChangesMemory : Obligations.OnlyStoreWordChangesMemory := by
  intro s t hwf h
  obtain ⟨w, i, hfetch, hdecode, hexec⟩ := step_next_cases h
  obtain ⟨-, rfl⟩ := (fetch_ok_iff s w).mp hfetch
  cases exec_next_outcome hexec with
  | commits d v => exact .inl (commitReg_readByte s d v)
  | redirects p _ => exact .inl (setPc_readByte s p)
  | stores r1 r2 offset hi hacc =>
    exact .inr ⟨r1, r2, offset, hi ▸ hdecode, fun _ => rfl, writeMem_sameMemoryOutside hwf hacc _⟩

end Sys2Proof.Machine
end

section
/-! When a step faults and when it completes (40_datapath.md R100, R103; 60_exceptions.md R200, R203), and the
instruction that it runs. -/

namespace Sys2Proof.Machine

/-! ### Faults of a decoded instruction -/

theorem exec_fault_cases {i : Instr} {s : State} {f : Fault} (h : exec i s = .fault f) :
    ∃ r1 r2 offset, (i = .lw r1 r2 offset ∨ i = .sw r1 r2 offset) ∧
      checkData (effectiveAddress s r1 offset) = some f := by
  have houtcome : ExecOutcome i s (.fault f) := h ▸ exec_outcome i s
  cases houtcome with
  | faults r1 r2 offset _ hi hcheck => exact ⟨r1, r2, offset, hi, hcheck⟩

theorem checkData_fault_kind {addr : Word} {f : Fault} (h : checkData addr = some f) :
    f = .misalignedMemoryAccess ∨ f = .outOfBoundsMemoryAccess := by
  obtain ⟨-, hf⟩ | ⟨-, -, hf⟩ := (checkData_some_iff addr f).mp h
  · exact .inr hf
  · exact .inl hf

theorem exec_ne_refused (i : Instr) (s : State) (r : Refusal) : exec i s ≠ .refused r := by
  intro h
  have houtcome : ExecOutcome i s (.refused r) := h ▸ exec_outcome i s
  cases houtcome

/-- Settles O49: lw and sw fault as the data check of their address does, the bounds first. -/
theorem dataFaultsWhereChecked : Obligations.DataFaultsWhereChecked := by
  intro r1 r2 offset s
  have faults {f : Fault} (hcheck : checkData (effectiveAddress s r1 offset) = some f) :
      exec (.lw r1 r2 offset) s = .fault f ∧ exec (.sw r1 r2 offset) s = .fault f :=
    ⟨(execLw_fault_iff r1 r2 offset s f).mpr hcheck, (execSw_fault_iff r1 r2 offset s f).mpr hcheck⟩
  exact ⟨fun hout => faults ((checkData_some_iff _ _).mpr (.inl ⟨hout, rfl⟩)),
    fun hlt hmis => faults ((checkData_some_iff _ _).mpr (.inr ⟨hlt, hmis, rfl⟩))⟩

/-- Settles O50: a fault of exec is one of the data check of a lw or sw. -/
theorem onlyLoadsAndStoresFault : Obligations.OnlyLoadsAndStoresFault := by
  intro i s f h
  obtain ⟨r1, r2, offset, hi, hcheck⟩ := exec_fault_cases h
  exact ⟨⟨r1, r2, offset, hi⟩, checkData_fault_kind hcheck⟩

/-! ### The step, stage by stage -/

theorem step_of_checkFetch {s : State} {f : Fault} (h : checkFetch s.pc = some f) : step s = .fault f := by
  simp only [step, (fetch_error_iff s f).mpr h, raise]

theorem step_of_decode_ok {s : State} {w : Word} {i : Instr} (hfetch : fetch s = .ok w) (hdecode : decodeWord w = .ok i) :
    step s = exec i s := by
  simp only [step, hfetch, hdecode]

theorem fetch_of_fetchable {s : State} (h : Fetchable s.pc) : fetch s = .ok (Memory.readWord s.mem s.pc.toNat) :=
  (fetch_ok_iff s _).mpr ⟨h, rfl⟩

/-- Settles O27: the fetch gives the word at pc, the decoder the instruction, and the step is its meaning. -/
theorem stepRunsDecodedInstruction : Obligations.StepRunsDecodedInstruction := fun _ _ hpc hdecode =>
  step_of_decode_ok (fetch_of_fetchable hpc) hdecode

/-- No later stage raises a fault of the fetch. -/
theorem step_fetchFault_iff {f : Fault} (hf : f = .outOfBoundsFetch ∨ f = .misalignedFetch) (s : State) :
    step s = .fault f ↔ checkFetch s.pc = some f := by
  refine ⟨fun h => ?_, step_of_checkFetch⟩
  obtain hcheck | ⟨-, e, -, -, he⟩ | ⟨-, i, -, -, hexec⟩ := step_fault_cases h
  · exact hcheck
  · cases e <;> simp [he, faultOfIllegal] at hf
  · obtain ⟨r1, r2, offset, -, hcheck⟩ := exec_fault_cases hexec
    obtain rfl | rfl := checkData_fault_kind hcheck <;> simp at hf

/-- Settles O48: a fetch fault of the step is that of the fetch check, which tests the bounds first. -/
theorem fetchFaultsExactly : Obligations.FetchFaultsExactly := by
  intro s
  rw [step_fetchFault_iff (.inl rfl), step_fetchFault_iff (.inr rfl), checkFetch_some_iff, checkFetch_some_iff]
  simp

/-- Settles O53: each stage ends in a fault or goes on, and no meaning refuses. -/
theorem noStepIsRefused : Obligations.NoStepIsRefused := by
  intro s r h
  cases hfetch : fetch s with
  | error f =>
    rw [step_of_checkFetch ((fetch_error_iff s f).mp hfetch)] at h
    cases h
  | ok w =>
    cases hdecode : decodeWord w with
    | error e =>
      rw [step_of_decode_error hfetch hdecode] at h
      cases h
    | ok i => exact exec_ne_refused i s r (step_of_decode_ok hfetch hdecode ▸ h)

/-! ### When a step completes -/

/-- A meaning completes exactly when it is no lw or sw on an address that is not accessible. -/
theorem exec_completes_iff (i : Instr) (s : State) : (∃ t, exec i s = .next t) ↔
    ∀ r1 r2 offset, (i = .lw r1 r2 offset ∨ i = .sw r1 r2 offset) → Accessible (effectiveAddress s r1 offset) := by
  constructor
  · rintro ⟨t, h⟩ r1 r2 offset (rfl | rfl)
    · exact ((exec_lw_next_iff r1 r2 offset s t).mp h).1
    · exact ((exec_sw_next_iff r1 r2 offset s t).mp h).1
  · intro hacc
    cases h : exec i s with
    | next t => exact ⟨t, rfl⟩
    | fault f =>
      obtain ⟨r1, r2, offset, hi, hcheck⟩ := exec_fault_cases h
      rw [(checkData_none_iff _).mpr (hacc r1 r2 offset hi)] at hcheck
      cases hcheck
    | refused r => exact absurd h (exec_ne_refused i s r)

/-- Settles O54: a completed step is a fetch, a decoding and a completed meaning, in both directions. -/
theorem stepCompletesExactly : Obligations.StepCompletesExactly := by
  intro s
  constructor
  · rintro ⟨t, h⟩
    obtain ⟨w, i, hfetch, hdecode, hexec⟩ := step_next_cases h
    obtain ⟨hpc, rfl⟩ := (fetch_ok_iff s w).mp hfetch
    exact ⟨hpc, i, hdecode, (exec_completes_iff i s).mp ⟨t, hexec⟩⟩
  · rintro ⟨hpc, i, hdecode, hacc⟩
    obtain ⟨t, hexec⟩ := (exec_completes_iff i s).mpr hacc
    exact ⟨t, (step_of_decode_ok (fetch_of_fetchable hpc) hdecode).trans hexec⟩

/-! ### Every fault arises (R200) -/

theorem exists_fault_with_code {s : State} {f : Fault} (h : step s = .fault f) :
    ∃ s : State, step s = .fault f ∧ resultCode (step s) = some f.code :=
  ⟨s, h, congrArg resultCode h⟩

/-- Settles O52: pc 2 and pc 0x10001 for the fetch; from reset, a word with opcode 1, the word 0, `lw $2, 1($0)` and
`lw $2, -4($0)` for the later stages. -/
theorem everyFaultArises : Obligations.EveryFaultArises := by
  refine ⟨fun f => ?_, rfl, rfl, rfl, rfl, rfl, rfl⟩
  cases f with
  | misalignedFetch => exact exists_fault_with_code (s := State.reset.setPc 2#32) rfl
  | outOfBoundsFetch => exact exists_fault_with_code (s := State.reset.setPc 0x10001#32) rfl
  | illegalOpcode => exact exists_fault_with_code (s := State.reset.withFetchWord 32 0x04000000) rfl
  | invalidALUSrcCombination => exact exists_fault_with_code (s := State.reset) rfl
  | misalignedMemoryAccess => exact exists_fault_with_code (s := State.reset.withFetchWord 32 0x8C020001) rfl
  | outOfBoundsMemoryAccess => exact exists_fault_with_code (s := State.reset.withFetchWord 32 0x8C02FFFC) rfl

end Sys2Proof.Machine
end

section
/-! Runs under a stop condition: what a run that ends in a fault has done before, and that it is stuck
(60_exceptions.md R202, R205; 70_reset_and_hazards.md R232, R233). -/

namespace Sys2Proof.Machine

/-- A run of one more step is still running exactly when its first step committed and the rest is still running. -/
theorem run_succ_running_iff (stop : State → Bool) (n : Nat) (s t : State) : run stop (n + 1) s = .running t ↔
    stop s = false ∧ ∃ u, step s = .next u ∧ run stop n u = .running t := by
  cases hstop : stop s <;> cases hstep : step s <;> simp [run, hstop, hstep]

/-- A run of one more step ends in a fault exactly when its first step faults or that step committed and the rest ends
in the fault. -/
theorem run_succ_faulted_iff (stop : State → Bool) (n : Nat) (s t : State) (f : Fault) :
    run stop (n + 1) s = .faulted f t ↔
      stop s = false ∧ ((step s = .fault f ∧ s = t) ∨ ∃ u, step s = .next u ∧ run stop n u = .faulted f t) := by
  cases hstop : stop s <;> cases hstep : step s <;> simp [run, hstop, hstep]

theorem run_faulted_iff (stop : State → Bool) (n : Nat) (s t : State) (f : Fault) : run stop n s = .faulted f t ↔
    ∃ k, k < n ∧ run stop k s = .running t ∧ stop t = false ∧ step t = .fault f := by
  induction n generalizing s with
  | zero => simp [run]
  | succ n ih =>
    rw [run_succ_faulted_iff]
    constructor
    · rintro ⟨hstop, ⟨hstep, rfl⟩ | ⟨u, hstep, hrun⟩⟩
      · exact ⟨0, n.succ_pos, rfl, hstop, hstep⟩
      · obtain ⟨k, hk, hreach, hend⟩ := (ih u).mp hrun
        exact ⟨k + 1, Nat.succ_lt_succ hk, (run_succ_running_iff stop k s t).mpr ⟨hstop, u, hstep, hreach⟩, hend⟩
    · rintro ⟨k, hk, hreach, hend⟩
      cases k with
      | zero =>
        obtain rfl : s = t := RunStatus.running.inj hreach
        obtain ⟨hstop, hstep⟩ := hend
        exact ⟨hstop, .inl ⟨hstep, rfl⟩⟩
      | succ k =>
        obtain ⟨hstop, u, hstep, hrest⟩ := (run_succ_running_iff stop k s t).mp hreach
        exact ⟨hstop, .inr ⟨u, hstep, (ih u).mpr ⟨k, Nat.lt_of_succ_lt_succ hk, hrest, hend⟩⟩⟩

/-- Settles O51: by induction on the number of steps. -/
theorem faultCommitsNothing : Obligations.FaultCommitsNothing := run_faulted_iff

/-- Settles O60: the committed steps before the fault are the same in every longer run. -/
theorem faultedRunIsStuck : Obligations.FaultedRunIsStuck := by
  intro stop n s t f h
  obtain ⟨k, hk, hreach, hstop, hstep⟩ := (run_faulted_iff stop n s t f).mp h
  exact ⟨hstep, hstop, fun j =>
    (run_faulted_iff stop (n + j) s t f).mpr ⟨k, Nat.lt_add_right j hk, hreach, hstop, hstep⟩⟩

end Sys2Proof.Machine
end

section
/-! Words in memory and the fetch: a placed word and a stored word are what is fetched and loaded from their address
(40_datapath.md section 2; 20_memory.md section 8; 43_load_store.md, the round trip; log entries 3, 7, 20). -/

namespace Sys2Proof

/-- The bytes of a word decode as the word does. -/
theorem decodeWord_of_decodeBytes {w : Word} {i : Instr} {rest : List Byte}
    (h : decodeBytes (bytesOfWord w) = .ok (i, rest)) : decodeWord w = .ok i := by
  simp only [decodeBytes, bytesOfWord, Machine.wordOfBytes_bytesOfWord] at h
  cases hdecode : decodeWord w with
  | error e =>
    rw [hdecode] at h
    cases h
  | ok j =>
    rw [hdecode] at h
    cases h
    rfl

theorem decodeWord_of_decodeTableWord {nbits w : Nat} {i : Instr} (h : decodeTableWord nbits w = some i) :
    decodeWord (tableWord nbits w) = .ok i := by
  unfold decodeTableWord at h
  split at h
  · rename_i j rest hbytes
    obtain rfl : j = i := Option.some.inj h
    exact decodeWord_of_decodeBytes hbytes
  · cases h

end Sys2Proof

namespace Sys2Proof.Machine

theorem fetch_writeMem {s : State} (hwf : Memory.wf s.mem = true) (hpc : Fetchable s.pc) (v : Word) :
    fetch (s.writeMem s.pc.toNat v) = .ok v :=
  (fetch_ok_iff _ v).mpr ⟨hpc, (readWord_writeWord_same hwf (Accessible.lastByte_lt hpc) v).symm⟩

/-- The placed word is what the next fetch gives, at pc or, where pc cannot be fetched, at 0. -/
theorem fetch_withFetchWord {s : State} (hwf : Memory.wf s.mem = true) (nbits w : Nat) :
    fetch (s.withFetchWord nbits w) = .ok (tableWord nbits w) := by
  unfold State.withFetchWord
  cases hcheck : checkFetch s.pc with
  | none => exact fetch_writeMem hwf ((checkFetch_none_iff s.pc).mp hcheck) _
  | some f =>
    have hzero : Fetchable 0#32 := (checkFetch_none_iff 0#32).mp rfl
    exact fetch_writeMem (s := s.setPc 0#32) hwf hzero _

/-- Settles O28: the placed word is fetched, and the decoder reads from it what it reads from its bytes. -/
theorem placedWordRuns : Obligations.PlacedWordRuns := fun _ w _ hwf hdecode =>
  step_of_decode_ok (fetch_withFetchWord hwf 32 w) (decodeWord_of_decodeTableWord hdecode)

/-- Settles O56: the store's address is fetchable, being accessible, and the stored word is there. -/
theorem storeIsSeenByFetch : Obligations.StoreIsSeenByFetch := by
  intro r1 r2 offset s t u hwf h hmem hpc
  obtain ⟨hacc, -⟩ := (exec_sw_next_iff r1 r2 offset s t).mp h
  refine (fetch_ok_iff u _).mpr ⟨?_, ?_⟩
  · rw [hpc]
    exact hacc
  · rw [hpc, hmem, readWord_of_exec_sw hwf h]

/-- A completed sw changes neither the base register nor the address it gives. -/
theorem effectiveAddress_of_exec_sw {r1 r2 : RegIdx} {offset : Offset} {s t : State}
    (h : exec (.sw r1 r2 offset) s = .next t) : effectiveAddress t r1 offset = effectiveAddress s r1 offset := by
  obtain ⟨-, rfl⟩ := (exec_sw_next_iff r1 r2 offset s t).mp h
  rfl

theorem pc_of_exec_sw {r1 r2 : RegIdx} {offset : Offset} {s t : State} (h : exec (.sw r1 r2 offset) s = .next t) :
    t.pc = s.pc + 4#32 := by
  obtain ⟨-, rfl⟩ := (exec_sw_next_iff r1 r2 offset s t).mp h
  rfl

/-- Settles O57: the load's address is the store's, so it is accessible and the stored word is there. -/
theorem storeThenLoadReturnsValue : Obligations.StoreThenLoadReturnsValue := by
  intro r1 r2 d offset s t hwf h
  obtain ⟨hacc, -⟩ := (exec_sw_next_iff r1 r2 offset s t).mp h
  have haddr := effectiveAddress_of_exec_sw h
  have hload : exec (.lw r1 d offset) t = .next (t.commitReg d (storeData s r1 r2)) := by
    rw [exec_lw_next_iff, haddr, readWord_of_exec_sw hwf h]
    exact ⟨hacc, rfl⟩
  obtain ⟨u, hnext, hbecomes, hpc⟩ := exists_next_of_commitReg hload
  refine ⟨u, hnext, hbecomes, ?_⟩
  rw [hpc, pc_of_exec_sw h, BitVec.add_assoc]
  rfl

end Sys2Proof.Machine
end

section
/-! Instructions that change pc alone or nothing: the no-op idiom and the one-instruction loops (30_encoding.md
section 6; 44_control_transfer.md, corner cases; 70_reset_and_hazards.md section 2). -/

namespace Sys2Proof.Machine

/-- Writing a register with what it reads as changes nothing: register 0, where it reads 0 by wire, discards the
write. -/
theorem writeReg_readReg_self (s : State) (d : RegIdx) : s.writeReg d (s.readReg d) = s := by
  by_cases h : Discarded s d
  · exact writeReg_of_discarded h _
  · rw [writeReg_of_kept h, readReg_of_kept h, State.slot, Vector.set_getElem_self]

/-- Settles O58: the sum is the register itself, so the write changes nothing. -/
theorem addiZeroOnlyAdvances : Obligations.AddiZeroOnlyAdvances := by
  intro k s
  have hsum : s.readReg k + (0#16).signExtend 32 = s.readReg k := BitVec.add_zero _
  rw [exec_addi, hsum, State.commitReg, writeReg_readReg_self]
  rfl

theorem setPc_self (s : State) : s.setPc s.pc = s := rfl

/-- Offset -1 takes back the 4 that the branch adds. -/
theorem branchTarget_minus_one (pc : Word) : branchTarget pc 0xFFFF#16 = pc := by
  have hshift : signExtend32 0xFFFF#16 <<< 2 = -4#32 := rfl
  rw [branchTarget, hshift, BitVec.add_assoc, BitVec.add_right_neg, BitVec.add_zero]

/-- A target whose word address is pc is reached without a change of pc: the kept top bits of pc are among its bits. -/
theorem jumpTarget_self {pc : Word} {target : Target} (h : pc.toNat = 4 * target.toNat) : jumpTarget pc target = pc := by
  have hpc : target.zeroExtend 32 <<< 2 = pc := by
    apply BitVec.eq_of_toNat_eq
    rw [BitVec.toNat_shiftLeft, Nat.shiftLeft_eq, BitVec.toNat_setWidth]
    omega
  rw [jumpTarget, hpc]
  ext k
  simp +contextual

/-- Settles O59: in both loops the new pc is the old one. -/
theorem selfLoopsKeepState : Obligations.SelfLoopsKeepState := by
  refine ⟨fun r1 r2 s heq => ?_, fun target s hpc => ?_⟩
  · rw [exec_beq, if_pos heq, branchTarget_minus_one, setPc_self]
  · rw [exec_j, jumpTarget_self hpc, setPc_self]

end Sys2Proof.Machine
end

section
/-! The control vectors: the rows of the decode table, the decoder invariants, and the operation each row selects
(30_encoding.md R69, R70; 40_datapath.md R111, R112). -/

namespace Sys2Proof

/-- Settles O10: the nine rows, evaluated. -/
theorem decodeTableCells : Obligations.DecodeTableCells := ⟨rfl, rfl, rfl, rfl, rfl, rfl, rfl, rfl, rfl⟩

/-- The five checks of well-formedness are the five decoder invariants. -/
theorem ControlVector.wellFormed_iff (c : ControlVector) : c.wellFormed = true ↔
    ¬ (c.regDst = .na ∧ c.regWrite = true) ∧ ¬ (c.memRead = true ∧ c.memWrite = true) ∧
    ¬ (c.jump = true ∧ c.branch = true) ∧ ¬ (c.regWrite = true ∧ c.memWrite = true) ∧
    (c.memtoReg = .mem → c.memRead = true) := by
  simp only [wellFormed, namesItsDestination, oneMemoryAccess, oneTransfer, oneDestination, Bool.and_eq_true,
    Bool.not_eq_true', Bool.and_eq_false_imp, loadsWhatItSelects_iff, and_assoc]
  simp [and_comm (a := c.regDst = .na)]

/-- Settles O11: every row of the table is well formed. -/
theorem decoderKeepsInvariants : Obligations.DecoderKeepsInvariants := fun _ c h =>
  c.wellFormed_iff.mp (controlDecoder_wellFormed h)

/-- Only the row of opcode 0 leaves the operation to the function code. -/
theorem controlDecoder_selection {op : Opcode} {c : ControlVector} (h : controlDecoder op = some c) :
    (op = 0#6 ∧ c.aluSrc = .reg ∧ c.aluOp = .rtype) ∨
    (op ≠ 0#6 ∧ (c.aluSrc, c.aluOp) ∈
      [(ALUSrc.reg, ALUOpKind.sub), (.imm, .add), (.imm, .slt), (.imm, .sltu), (.imm, .sll16)]) := by
  unfold controlDecoder at h
  split_ifs at h with h0
  · cases h
    exact .inl ⟨h0, rfl, rfl⟩
  all_goals
    cases h
    exact .inr ⟨h0, by simp⟩

end Sys2Proof

namespace Sys2Proof.Machine

theorem selectOperation_branch (f : Funct) : selectOperation .reg .sub f = some .sub := rfl

theorem selectOperation_of_ne_sub {k : ALUOpKind} (h : k ≠ .sub) (f : Funct) :
    selectOperation .reg k f = functOperation f := if_neg h

/-- The selections of the table's other rows name an operation, whatever the function code. -/
theorem selectOperation_ne_none {aluSrc : ALUSrc} {aluOp : ALUOpKind} (h : (aluSrc, aluOp) ∈
    [(ALUSrc.reg, ALUOpKind.sub), (.imm, .add), (.imm, .slt), (.imm, .sltu), (.imm, .sll16)]) (f : Funct) :
    selectOperation aluSrc aluOp f ≠ none := by
  simp only [List.mem_cons, Prod.mk.injEq, List.not_mem_nil, or_false] at h
  obtain ⟨rfl, rfl⟩ | ⟨rfl, rfl⟩ | ⟨rfl, rfl⟩ | ⟨rfl, rfl⟩ | ⟨rfl, rfl⟩ := h <;> exact Option.some_ne_none _

/-- Settles O13: the branch context needs no function code; of the table's rows, opcode 0 has the selection that does,
and the others name their operation. -/
theorem registerSelection : Obligations.RegisterSelection := by
  refine ⟨selectOperation_branch, fun k f hk => selectOperation_of_ne_sub hk f, fun op c f hc => ?_⟩
  obtain ⟨hop, hsrc, haluOp⟩ | ⟨hop, hrow⟩ := controlDecoder_selection hc
  · have hsub : ALUOpKind.rtype ≠ .sub := by decide
    rw [hsrc, haluOp, selectOperation_of_ne_sub hsub, functOperation_eq_none_iff]
    exact ⟨List.mem_cons_self, fun hf => ⟨hop, hf⟩, And.right⟩
  · exact ⟨List.mem_cons_of_mem _ hrow, fun hnone => absurd hnone (selectOperation_ne_none hrow f),
      fun h => absurd h.1 hop⟩

end Sys2Proof.Machine
end

section
/-! The ten-component step equals the decoded step: one equation of the datapath per kind of control vector, against the
meaning of each instruction (40_datapath.md R100 to R130). -/

namespace Sys2Proof.Machine

/-! ### Where the datapath faults before the memory unit -/

theorem datapathStep_of_fetch_error {s : State} {f : Fault} (hfetch : fetch s = .error f) :
    datapathStep s = .fault f := by
  simp only [datapathStep, hfetch, raise]

/-- A word that spells no instruction has no control vector or, under opcode 0, selects no operation. -/
theorem datapathStep_of_decode_error {s : State} {w : Word} {e : IllegalWord} (hfetch : fetch s = .ok w)
    (hdecode : decodeWord w = .error e) : datapathStep s = .fault (faultOfIllegal e) := by
  cases e with
  | illegalOpcode =>
    have hnone := (decodeFields_illegalOpcode_iff (partition w)).mp hdecode
    simp only [datapathStep, hfetch, hnone, raise, faultOfIllegal]
  | invalidALUSrcCombination =>
    obtain ⟨hop, hfunct⟩ := (decodeFields_invalid_iff (partition w)).mp hdecode
    have hrow : controlDecoder (partition w).opcode = some _ := congrArg controlDecoder hop
    have hnone : selectOperation .reg .rtype (partition w).funct = none := (functOperation_eq_none_iff _).mpr hfunct
    simp only [datapathStep, hfetch, hrow, hnone, raise, faultOfIllegal]

/-! ### The datapath under each kind of control vector -/

theorem commitReg_eq_setPc (s : State) (d : RegIdx) (v : Word) :
    s.commitReg d v = (s.writeReg d v).setPc (s.pc + 4#32) := by
  rw [State.commitReg, State.advance, writeReg_pc]

/-- With MemRead and MemWrite off and the ALU result selected, the step writes back the result and updates pc. -/
theorem datapathStep_of_idle_memory {s : State} {w : Word} {c : ControlVector} {op : AluOp} {result : Word}
    (hfetch : fetch s = .ok w) (hrow : controlDecoder (partition w).opcode = some c)
    (hop : selectOperation c.aluSrc c.aluOp (partition w).funct = some op)
    (hresult : aluResult s.params op (s.readReg (partition w).r1)
      (selectOperand c.aluSrc (s.readReg (partition w).r2) (signExtend32 (partition w).offset)) = result)
    (hread : c.memRead = false) (hwrite : c.memWrite = false) (hsel : c.memtoReg = .alu) :
    datapathStep s = .next ((registerWriteback c s (partition w).r2 (partition w).r3 result).setPc
      (pcUpdate s.pc c.jump c.branch (zeroFlag result) (signExtend32 (partition w).offset) (partition w).target)) := by
  simp only [datapathStep, hfetch, hrow, hop, hresult, memoryUnitFault_of_idle hread hwrite,
    memoryUnitWrite_of_not_memWrite hwrite, writebackData_of_alu hsel]

/-- Opcode 0: the selected operation on x[r1] and x[r2] goes to r3. -/
theorem datapathStep_of_registerType {s : State} {w : Word} {op : AluOp} (hfetch : fetch s = .ok w)
    (hop : (partition w).opcode = 0#6) (hfunct : functOperation (partition w).funct = some op) :
    datapathStep s = .next (s.commitReg (partition w).r3
      (aluResult s.params op (s.readReg (partition w).r1) (s.readReg (partition w).r2))) := by
  rw [commitReg_eq_setPc]
  exact datapathStep_of_idle_memory hfetch (congrArg controlDecoder hop) hfunct rfl rfl rfl rfl

/-- The immediate rows: the selected operation on x[r1] and the extended offset goes to r2. -/
theorem datapathStep_of_immediate {s : State} {w : Word} {k : ALUOpKind} {op : AluOp} (hfetch : fetch s = .ok w)
    (hrow : controlDecoder (partition w).opcode = some ⟨.r2, .imm, k, .alu, true, false, false, false, false⟩)
    (hop : immediateOperation k = some op) :
    datapathStep s = .next (s.commitReg (partition w).r2
      (aluResult s.params op (s.readReg (partition w).r1) (signExtend32 (partition w).offset))) := by
  rw [commitReg_eq_setPc]
  exact datapathStep_of_idle_memory hfetch hrow hop rfl rfl rfl rfl

theorem datapathStep_of_j {s : State} {w : Word} (hfetch : fetch s = .ok w) (hop : (partition w).opcode = 2#6) :
    datapathStep s = .next (s.setPc (jumpTarget s.pc (partition w).target)) :=
  datapathStep_of_idle_memory hfetch (congrArg controlDecoder hop) rfl rfl rfl rfl rfl

/-- beq subtracts, and the Zero flag of the difference takes the branch. -/
theorem datapathStep_of_beq {s : State} {w : Word} (hfetch : fetch s = .ok w) (hop : (partition w).opcode = 4#6) :
    datapathStep s = exec (.beq (partition w).r1 (partition w).r2 (partition w).offset) s := by
  have hnext : datapathStep s = .next (s.setPc (pcUpdate s.pc false true
      (zeroFlag (s.readReg (partition w).r1 - s.readReg (partition w).r2)) (signExtend32 (partition w).offset)
      (partition w).target)) :=
    datapathStep_of_idle_memory hfetch (congrArg controlDecoder hop) rfl rfl rfl rfl rfl
  rw [hnext, exec, execBeq]
  cases zeroFlag (s.readReg (partition w).r1 - s.readReg (partition w).r2) <;> rfl

/-- The rows of lw and sw form the effective address; where it fails the data check, the step faults. -/
theorem datapathStep_of_address_fault {s : State} {w : Word} {c : ControlVector} {f : Fault}
    (hfetch : fetch s = .ok w) (hrow : controlDecoder (partition w).opcode = some c) (hsrc : c.aluSrc = .imm)
    (hadd : c.aluOp = .add) (hasked : c.memRead = true ∨ c.memWrite = true)
    (hcheck : checkData (effectiveAddress s (partition w).r1 (partition w).offset) = some f) :
    datapathStep s = .fault f := by
  have hop : selectOperation .imm .add (partition w).funct = some .add := rfl
  rw [effectiveAddress] at hcheck
  simp only [datapathStep, hfetch, hrow, hsrc, hadd, hop, selectOperand, aluResult, memoryUnitFault_of_asserted hasked,
    hcheck, raise]

/-- Where the effective address passes the data check, the step does what is asked of the memory unit and goes on. -/
theorem datapathStep_of_accessible {s : State} {w : Word} {c : ControlVector}
    (hfetch : fetch s = .ok w) (hrow : controlDecoder (partition w).opcode = some c) (hsrc : c.aluSrc = .imm)
    (hadd : c.aluOp = .add) (hasked : c.memRead = true ∨ c.memWrite = true) (hjump : c.jump = false)
    (hbranch : c.branch = false) {addr : Word} (haddr : effectiveAddress s (partition w).r1 (partition w).offset = addr)
    (hcheck : checkData addr = none) :
    datapathStep s = .next ((registerWriteback c
      (memoryUnitWrite c s addr (storeData s (partition w).r1 (partition w).r2)) (partition w).r2 (partition w).r3
      (writebackData c (memoryUnitRead c s.mem addr) addr)).setPc (s.pc + 4#32)) := by
  have hop : selectOperation .imm .add (partition w).funct = some .add := rfl
  rw [effectiveAddress] at haddr
  simp [datapathStep, hfetch, hrow, hsrc, hadd, hop, selectOperand, aluResult, memoryUnitFault_of_asserted hasked,
    haddr, hcheck, pcUpdate, hjump, hbranch]

theorem datapathStep_of_lw {s : State} {w : Word} (hfetch : fetch s = .ok w) (hop : (partition w).opcode = 35#6) :
    datapathStep s = exec (.lw (partition w).r1 (partition w).r2 (partition w).offset) s := by
  have hrow := congrArg controlDecoder hop
  cases hcheck : checkData (effectiveAddress s (partition w).r1 (partition w).offset) with
  | some f =>
    rw [datapathStep_of_address_fault hfetch hrow rfl rfl (.inl rfl) hcheck]
    exact ((execLw_fault_iff ..).mpr hcheck).symm
  | none =>
    rw [datapathStep_of_accessible hfetch hrow rfl rfl (.inl rfl) rfl rfl rfl hcheck,
      (exec_lw_next_iff ..).mpr ⟨(checkData_none_iff _).mp hcheck, rfl⟩, commitReg_eq_setPc]
    rfl

theorem datapathStep_of_sw {s : State} {w : Word} (hfetch : fetch s = .ok w) (hop : (partition w).opcode = 43#6) :
    datapathStep s = exec (.sw (partition w).r1 (partition w).r2 (partition w).offset) s := by
  have hrow := congrArg controlDecoder hop
  cases hcheck : checkData (effectiveAddress s (partition w).r1 (partition w).offset) with
  | some f =>
    rw [datapathStep_of_address_fault hfetch hrow rfl rfl (.inr rfl) hcheck]
    exact ((execSw_fault_iff ..).mpr hcheck).symm
  | none =>
    rw [datapathStep_of_accessible hfetch hrow rfl rfl (.inr rfl) rfl rfl rfl hcheck,
      (exec_sw_next_iff ..).mpr ⟨(checkData_none_iff _).mp hcheck, rfl⟩]
    rfl

/-- On a fetched word the datapath does what the instruction that the word spells means. -/
theorem datapathStep_of_spells {s : State} {w : Word} {i : Instr} (hfetch : fetch s = .ok w)
    (h : Spells (partition w) i) : datapathStep s = exec i s := by
  cases h with
  | add hop hfunct =>
    exact datapathStep_of_registerType (op := .add) hfetch hop (congrArg functOperation hfunct)
  | sub hop hfunct =>
    exact datapathStep_of_registerType (op := .sub) hfetch hop (congrArg functOperation hfunct)
  | and hop hfunct =>
    exact datapathStep_of_registerType (op := .and) hfetch hop (congrArg functOperation hfunct)
  | or hop hfunct =>
    exact datapathStep_of_registerType (op := .or) hfetch hop (congrArg functOperation hfunct)
  | slt hop hfunct =>
    exact datapathStep_of_registerType (op := .slt) hfetch hop (congrArg functOperation hfunct)
  | sltu hop hfunct =>
    exact datapathStep_of_registerType (op := .sltu) hfetch hop (congrArg functOperation hfunct)
  | addi hop => exact datapathStep_of_immediate (k := .add) (op := .add) hfetch (congrArg controlDecoder hop) rfl
  | slti hop => exact datapathStep_of_immediate (k := .slt) (op := .slt) hfetch (congrArg controlDecoder hop) rfl
  | sltiu hop => exact datapathStep_of_immediate (k := .sltu) (op := .sltu) hfetch (congrArg controlDecoder hop) rfl
  | lui hop => exact datapathStep_of_immediate (k := .sll16) (op := .sll16) hfetch (congrArg controlDecoder hop) rfl
  | j hop => exact datapathStep_of_j hfetch hop
  | beq hop => exact datapathStep_of_beq hfetch hop
  | lw hop => exact datapathStep_of_lw hfetch hop
  | sw hop => exact datapathStep_of_sw hfetch hop

/-- Settles O18: the two steps agree where the fetch faults, where the word spells no instruction, and on each
instruction. -/
theorem stepIsDatapathStep : Obligations.StepIsDatapathStep := by
  intro s
  cases hfetch : fetch s with
  | error f => rw [datapathStep_of_fetch_error hfetch, step_of_checkFetch ((fetch_error_iff s f).mp hfetch)]
  | ok w =>
    cases hdecode : decodeWord w with
    | error e => rw [datapathStep_of_decode_error hfetch hdecode, step_of_decode_error hfetch hdecode]
    | ok i =>
      rw [datapathStep_of_spells hfetch (spells_of_decodeFields hdecode), step_of_decode_ok hfetch hdecode]

end Sys2Proof.Machine
end

section
/-! Register 0 and the state after reset (10_state.md R22 and section 8; 70_reset_and_hazards.md R230; log entries 1, 2,
3, 5). -/

namespace Sys2Proof.Machine

theorem not_discarded_of_not_hardwired {s : State} (h : s.params.r0Hardwired = false) (d : RegIdx) :
    ¬ Discarded s d := fun hd => Bool.false_ne_true (h.symm.trans hd.1)

/-- A register whose write is kept reads as what was written. -/
theorem readReg_writeReg_self {s : State} {d : RegIdx} (h : ¬ Discarded s d) (v : Word) :
    (s.writeReg d v).readReg d = v := by
  have hkept : ¬ Discarded (s.writeReg d v) d := by rwa [Discarded, writeReg_params]
  rw [readReg_of_kept hkept, writeReg_slot_self h]

/-- Settles O19: register 0 is discarded exactly where it is hard-wired. -/
theorem registerZeroFollowsParameter : Obligations.RegisterZeroFollowsParameter := by
  intro s v
  refine ⟨fun hsoft => ?_, fun hwired => ?_⟩
  · have hkept := not_discarded_of_not_hardwired hsoft 0#5
    exact ⟨readReg_of_kept hkept, readReg_writeReg_self hkept v⟩
  · have hdiscarded : Discarded s 0#5 := ⟨hwired, rfl⟩
    exact ⟨readReg_of_discarded hdiscarded, writeReg_of_discarded hdiscarded v⟩

theorem reset_slot (i : RegIdx) : State.reset.slot i = 0#32 := Vector.getElem_replicate i.isLt

/-- Settles O22: the fields of the launch from the chosen values. -/
theorem resetLeavesChosenValues : Obligations.ResetLeavesChosenValues :=
  ⟨reset_slot, rfl, fun _ => rfl, rfl, rfl, rfl⟩

/-- Settles O23: nothing is listed in memory, and pc is 0. -/
theorem resetMeetsInv : Obligations.ResetMeetsInv := ⟨rfl, rfl⟩

end Sys2Proof.Machine
end
